-- ==== Sys2Proof/Word.lean ====
section
/-! DEFINITION. The two word widths of the machine: bytes and 16-bit addresses
(00_scope.md R5, R7). -/

namespace Sys2Proof

/-- A register, a memory byte, an operand byte: 8 bits (R5). -/
abbrev Byte := BitVec 8

/-- `pc`, a bus address, a 16-bit transient value: 16 bits (R5). -/
abbrev Word := BitVec 16

end Sys2Proof
end

