-- ==== Sys2Proof/Config.lean ====
section
/-! DEFINITION. What surrounds the core and is fixed for a machine: the bus transactions, the
device list DEVICES, the cost parameter UNDOC_CYCLES (00_scope.md R5), and the free values of
devices whose behaviour the spec leaves open (20_memory.md R71). -/

namespace Sys2Proof

/-- One bus transaction (20_memory.md R51): an ordinary read (`side_effect_free = false`, R54) with
the byte it returned, or a write with the byte it carried. -/
inductive BusOp where
  | read (addr : Word) (value : Byte)
  | write (addr : Word) (value : Byte)
deriving DecidableEq, Repr

/-- What a device is (20_memory.md R63, R71): plain memory, read-only memory, or any other device. -/
inductive DeviceKind where
  /-- Plain memory: a read returns the last byte written. -/
  | ram
  /-- Read-only memory: a write is a no-op. -/
  | rom
  /-- Any other device: its answers are free values, its writes its own affair. -/
  | io
deriving DecidableEq, Repr

/-- One device registration `(start_address, end_address inclusive, …)` (20_memory.md R52). -/
structure Device where
  first : Word
  last : Word
  kind : DeviceKind
deriving DecidableEq, Repr

/-- The two parameters of a machine (00_scope.md R5): DEVICES, in order of registration, and
UNDOC_CYCLES, as the trap opcodes whose base cost differs from the default of 30_encoding.md R85. -/
structure Platform where
  devices : List Device
  undocCycles : List (Byte × Nat)
deriving DecidableEq, Repr

/-- UNDOC_CYCLES is a function to 2..8 (00_scope.md R5). -/
def Platform.wf (p : Platform) : Bool :=
  p.undocCycles.all fun e => decide (2 ≤ e.2) && decide (e.2 ≤ 8)

namespace Config

/-- The byte that plain memory nothing has written holds.
DESIGN CHOICE (log 2, unsafe): zero, as on the platform of 92_eei_decisions.md D28. -/
def memoryFill : Byte := 0

/-- FREE VALUE (20_memory.md R71, log 3): the byte that a device other than plain memory answers to a
read of an address, given every bus transaction before it, newest first. -/
opaque deviceByte : List BusOp → Word → Byte

/-- FREE VALUE (20_memory.md R54, U7, log 18): what such a device shows a host that observes it with
`side_effect_free = true`. -/
opaque observedByte : List BusOp → Word → Byte

/-- The platform of 92_eei_decisions.md D28: one RAM over the whole address space, default costs.
DESIGN CHOICE (log 1, log 9). -/
def testPlatform : Platform := { devices := [⟨0x0000, 0xFFFF, .ram⟩], undocCycles := [] }

end Config
end Sys2Proof
end

