-- ==== Sys2Proof/Syntax.lean ====
section
/-! DEFINITION. The instruction set as syntax: the twelve addressing modes with their operands
(30_encoding.md R81), one constructor of `Instr` per instruction of spec/opcode_table.json, the
operand form its argument; a row of the table is one constructor with one format (log 19). -/

namespace Sys2Proof

/-- The twelve formats, one per addressing mode (30_encoding.md R81). -/
inductive Format where
  | imp | imm | zp0 | zpx | zpy | rel | abs | abx | aby | ind | izx | izy
deriving DecidableEq, Repr

/-- An addressing mode with its operand (30_encoding.md R81, R83): a byte, or the 16-bit value of the
two operand bytes. -/
inductive Mode where
  /-- Implied, and the accumulator (R121). -/
  | imp
  /-- Immediate value (R122). -/
  | imm (b : Byte)
  /-- Zero page (R123). -/
  | zp0 (b : Byte)
  /-- Zero page + X (R124). -/
  | zpx (b : Byte)
  /-- Zero page + Y (R125). -/
  | zpy (b : Byte)
  /-- Relative: a signed displacement (R126). -/
  | rel (b : Byte)
  /-- Absolute (R127). -/
  | abs (w : Word)
  /-- Absolute + X (R128). -/
  | abx (w : Word)
  /-- Absolute + Y (R129). -/
  | aby (w : Word)
  /-- Indirect: a pointer (R130). -/
  | ind (w : Word)
  /-- Indexed-indirect (X) (R131). -/
  | izx (b : Byte)
  /-- Indirect-indexed (Y) (R132). -/
  | izy (b : Byte)
deriving DecidableEq, Repr

/-- The format of a mode. -/
def Mode.format : Mode → Format
  | .imp => .imp
  | .imm _ => .imm
  | .zp0 _ => .zp0
  | .zpx _ => .zpx
  | .zpy _ => .zpy
  | .rel _ => .rel
  | .abs _ => .abs
  | .abx _ => .abx
  | .aby _ => .aby
  | .ind _ => .ind
  | .izx _ => .izx
  | .izy _ => .izy

/-- The operation field of a descriptor table entry (30_encoding.md R88): the 56 documented
operations, the alias 0xEB and the trap. -/
inductive Op where
  | lda | ldx | ldy | sta | stx | sty | tax | tay | tsx | txa | txs | tya
  | adc | sbc | and | ora | eor | bit | cmp | cpx | cpy | inc | dec | inx | iny | dex | dey
  | asl | lsr | rol | ror
  | bcc | bcs | beq | bne | bmi | bpl | bvc | bvs | jmp | jsr | rts
  | pha | php | pla | plp | clc | cld | cli | clv | sec | sed | sei | nop | brk | rti
  | sbcEb | trap
deriving DecidableEq, Repr

/-- The instructions (30_encoding.md R84 to R86). An instruction with several operand forms takes the
mode as its argument; one with a single form takes that form's operand. -/
inductive Instr where
  | lda (m : Mode)
  | ldx (m : Mode)
  | ldy (m : Mode)
  | sta (m : Mode)
  | stx (m : Mode)
  | sty (m : Mode)
  | tax
  | tay
  | tsx
  | txa
  | txs
  | tya
  | adc (m : Mode)
  | sbc (m : Mode)
  | and (m : Mode)
  | ora (m : Mode)
  | eor (m : Mode)
  | bit (m : Mode)
  | cmp (m : Mode)
  | cpx (m : Mode)
  | cpy (m : Mode)
  | inc (m : Mode)
  | dec (m : Mode)
  | inx
  | iny
  | dex
  | dey
  | asl (m : Mode)
  | lsr (m : Mode)
  | rol (m : Mode)
  | ror (m : Mode)
  | bcc (b : Byte)
  | bcs (b : Byte)
  | beq (b : Byte)
  | bne (b : Byte)
  | bmi (b : Byte)
  | bpl (b : Byte)
  | bvc (b : Byte)
  | bvs (b : Byte)
  | jmp (m : Mode)
  | jsr (w : Word)
  | rts
  | pha
  | php
  | pla
  | plp
  | clc
  | cld
  | cli
  | clv
  | sec
  | sed
  | sei
  | nop
  | brk
  | rti
  /-- Opcode 0xEB, SBC immediate under the diagnostic mnemonic `???` (R86, R227). -/
  | sbcEb (b : Byte)
  /-- One of the 104 trap slots, by its opcode (R85, R226). -/
  | trap (opcode : Byte)
deriving DecidableEq, Repr

/-- The operation of an instruction. -/
def Instr.op : Instr → Op
  | .lda _ => .lda
  | .ldx _ => .ldx
  | .ldy _ => .ldy
  | .sta _ => .sta
  | .stx _ => .stx
  | .sty _ => .sty
  | .tax => .tax
  | .tay => .tay
  | .tsx => .tsx
  | .txa => .txa
  | .txs => .txs
  | .tya => .tya
  | .adc _ => .adc
  | .sbc _ => .sbc
  | .and _ => .and
  | .ora _ => .ora
  | .eor _ => .eor
  | .bit _ => .bit
  | .cmp _ => .cmp
  | .cpx _ => .cpx
  | .cpy _ => .cpy
  | .inc _ => .inc
  | .dec _ => .dec
  | .inx => .inx
  | .iny => .iny
  | .dex => .dex
  | .dey => .dey
  | .asl _ => .asl
  | .lsr _ => .lsr
  | .rol _ => .rol
  | .ror _ => .ror
  | .bcc _ => .bcc
  | .bcs _ => .bcs
  | .beq _ => .beq
  | .bne _ => .bne
  | .bmi _ => .bmi
  | .bpl _ => .bpl
  | .bvc _ => .bvc
  | .bvs _ => .bvs
  | .jmp _ => .jmp
  | .jsr _ => .jsr
  | .rts => .rts
  | .pha => .pha
  | .php => .php
  | .pla => .pla
  | .plp => .plp
  | .clc => .clc
  | .cld => .cld
  | .cli => .cli
  | .clv => .clv
  | .sec => .sec
  | .sed => .sed
  | .sei => .sei
  | .nop => .nop
  | .brk => .brk
  | .rti => .rti
  | .sbcEb _ => .sbcEb
  | .trap _ => .trap

/-- The addressing mode of an instruction, with its operand. -/
def Instr.mode : Instr → Mode
  | .lda m | .ldx m | .ldy m | .sta m | .stx m | .sty m => m
  | .adc m | .sbc m | .and m | .ora m | .eor m | .bit m => m
  | .cmp m | .cpx m | .cpy m | .inc m | .dec m => m
  | .asl m | .lsr m | .rol m | .ror m | .jmp m => m
  | .bcc b | .bcs b | .beq b | .bne b | .bmi b | .bpl b | .bvc b | .bvs b => .rel b
  | .jsr w => .abs w
  | .sbcEb b => .imm b
  | .tax | .tay | .tsx | .txa | .txs | .tya | .inx | .iny | .dex | .dey => .imp
  | .rts | .pha | .php | .pla | .plp | .nop | .brk | .rti => .imp
  | .clc | .cld | .cli | .clv | .sec | .sed | .sei | .trap _ => .imp

end Sys2Proof
end

