-- ==== Sys2Proof/Decode.lean ====
section
/-! DEFINITION. The decoder and the encoder: the 256-entry instruction descriptor table by opcode
byte (30_encoding.md R84 to R88), the same map by mnemonic (R84), operand assembly (R83), and the
bit-field helpers of 00_scope.md R7. -/

namespace Sys2Proof

/-- `hi(w)` (00_scope.md R7). -/
def hi (w : Word) : Byte := w.extractLsb' 8 8

/-- `lo(w)` (00_scope.md R7). -/
def lo (w : Word) : Byte := w.extractLsb' 0 8

/-- `{h, l}`, the 16-bit value `h * 256 + l` (00_scope.md R7). -/
def join (h l : Byte) : Word := BitVec.ofNat 16 (h.toNat * 256 + l.toNat)

/-- `zext_16(b)` (00_scope.md R7). -/
def zext16 (b : Byte) : Word := b.setWidth 16

/-- `sext_16(b)` (00_scope.md R7). -/
def sext16 (b : Byte) : Word := b.signExtend 16

/-! ### The instruction descriptor table -/

/-- An entry of the descriptor table (30_encoding.md R88): operation, addressing mode, base cost. The
diagnostic mnemonic and the operation signal are `diagnostic` and `opSignal`. -/
structure Entry where
  op : Op
  format : Format
  baseCycles : Nat
deriving DecidableEq, Repr

/-- A documented entry, or 0xEB. -/
def row (op : Op) (format : Format) (baseCycles : Nat) : Entry := ⟨op, format, baseCycles⟩

/-- A trap slot with its default cost: Implied, one byte (30_encoding.md R85). -/
def slot (baseCycles : Nat) : Entry := ⟨.trap, .imp, baseCycles⟩

/-- Opcodes 0x00 to 0x0F. -/
def tableRow0 : List Entry :=
  [row .brk .imp 7, row .ora .izx 6, slot 2, slot 8,
   slot 3, row .ora .zp0 3, row .asl .zp0 5, slot 5,
   row .php .imp 3, row .ora .imm 2, row .asl .imp 2, slot 2,
   slot 4, row .ora .abs 4, row .asl .abs 6, slot 6]

/-- Opcodes 0x10 to 0x1F. -/
def tableRow1 : List Entry :=
  [row .bpl .rel 2, row .ora .izy 5, slot 2, slot 8,
   slot 4, row .ora .zpx 4, row .asl .zpx 6, slot 6,
   row .clc .imp 2, row .ora .aby 4, slot 2, slot 7,
   slot 4, row .ora .abx 4, row .asl .abx 7, slot 7]

/-- Opcodes 0x20 to 0x2F. -/
def tableRow2 : List Entry :=
  [row .jsr .abs 6, row .and .izx 6, slot 2, slot 8,
   row .bit .zp0 3, row .and .zp0 3, row .rol .zp0 5, slot 5,
   row .plp .imp 4, row .and .imm 2, row .rol .imp 2, slot 2,
   row .bit .abs 4, row .and .abs 4, row .rol .abs 6, slot 6]

/-- Opcodes 0x30 to 0x3F. -/
def tableRow3 : List Entry :=
  [row .bmi .rel 2, row .and .izy 5, slot 2, slot 8,
   slot 4, row .and .zpx 4, row .rol .zpx 6, slot 6,
   row .sec .imp 2, row .and .aby 4, slot 2, slot 7,
   slot 4, row .and .abx 4, row .rol .abx 7, slot 7]

/-- Opcodes 0x40 to 0x4F. -/
def tableRow4 : List Entry :=
  [row .rti .imp 6, row .eor .izx 6, slot 2, slot 8,
   slot 3, row .eor .zp0 3, row .lsr .zp0 5, slot 5,
   row .pha .imp 3, row .eor .imm 2, row .lsr .imp 2, slot 2,
   row .jmp .abs 3, row .eor .abs 4, row .lsr .abs 6, slot 6]

/-- Opcodes 0x50 to 0x5F. -/
def tableRow5 : List Entry :=
  [row .bvc .rel 2, row .eor .izy 5, slot 2, slot 8,
   slot 4, row .eor .zpx 4, row .lsr .zpx 6, slot 6,
   row .cli .imp 2, row .eor .aby 4, slot 2, slot 7,
   slot 4, row .eor .abx 4, row .lsr .abx 7, slot 7]

/-- Opcodes 0x60 to 0x6F. -/
def tableRow6 : List Entry :=
  [row .rts .imp 6, row .adc .izx 6, slot 2, slot 8,
   slot 3, row .adc .zp0 3, row .ror .zp0 5, slot 5,
   row .pla .imp 4, row .adc .imm 2, row .ror .imp 2, slot 2,
   row .jmp .ind 5, row .adc .abs 4, row .ror .abs 6, slot 6]

/-- Opcodes 0x70 to 0x7F. -/
def tableRow7 : List Entry :=
  [row .bvs .rel 2, row .adc .izy 5, slot 2, slot 8,
   slot 4, row .adc .zpx 4, row .ror .zpx 6, slot 6,
   row .sei .imp 2, row .adc .aby 4, slot 2, slot 7,
   slot 4, row .adc .abx 4, row .ror .abx 7, slot 7]

/-- Opcodes 0x80 to 0x8F. -/
def tableRow8 : List Entry :=
  [slot 2, row .sta .izx 6, slot 2, slot 6,
   row .sty .zp0 3, row .sta .zp0 3, row .stx .zp0 3, slot 3,
   row .dey .imp 2, slot 2, row .txa .imp 2, slot 2,
   row .sty .abs 4, row .sta .abs 4, row .stx .abs 4, slot 4]

/-- Opcodes 0x90 to 0x9F. -/
def tableRow9 : List Entry :=
  [row .bcc .rel 2, row .sta .izy 6, slot 2, slot 6,
   row .sty .zpx 4, row .sta .zpx 4, row .stx .zpy 4, slot 4,
   row .tya .imp 2, row .sta .aby 5, row .txs .imp 2, slot 5,
   slot 5, row .sta .abx 5, slot 5, slot 5]

/-- Opcodes 0xA0 to 0xAF. -/
def tableRowA : List Entry :=
  [row .ldy .imm 2, row .lda .izx 6, row .ldx .imm 2, slot 6,
   row .ldy .zp0 3, row .lda .zp0 3, row .ldx .zp0 3, slot 3,
   row .tay .imp 2, row .lda .imm 2, row .tax .imp 2, slot 2,
   row .ldy .abs 4, row .lda .abs 4, row .ldx .abs 4, slot 4]

/-- Opcodes 0xB0 to 0xBF. -/
def tableRowB : List Entry :=
  [row .bcs .rel 2, row .lda .izy 5, slot 2, slot 5,
   row .ldy .zpx 4, row .lda .zpx 4, row .ldx .zpy 4, slot 4,
   row .clv .imp 2, row .lda .aby 4, row .tsx .imp 2, slot 4,
   row .ldy .abx 4, row .lda .abx 4, row .ldx .aby 4, slot 4]

/-- Opcodes 0xC0 to 0xCF. -/
def tableRowC : List Entry :=
  [row .cpy .imm 2, row .cmp .izx 6, slot 2, slot 8,
   row .cpy .zp0 3, row .cmp .zp0 3, row .dec .zp0 5, slot 5,
   row .iny .imp 2, row .cmp .imm 2, row .dex .imp 2, slot 2,
   row .cpy .abs 4, row .cmp .abs 4, row .dec .abs 6, slot 6]

/-- Opcodes 0xD0 to 0xDF. -/
def tableRowD : List Entry :=
  [row .bne .rel 2, row .cmp .izy 5, slot 2, slot 8,
   slot 4, row .cmp .zpx 4, row .dec .zpx 6, slot 6,
   row .cld .imp 2, row .cmp .aby 4, slot 2, slot 7,
   slot 4, row .cmp .abx 4, row .dec .abx 7, slot 7]

/-- Opcodes 0xE0 to 0xEF. -/
def tableRowE : List Entry :=
  [row .cpx .imm 2, row .sbc .izx 6, slot 2, slot 8,
   row .cpx .zp0 3, row .sbc .zp0 3, row .inc .zp0 5, slot 5,
   row .inx .imp 2, row .sbc .imm 2, row .nop .imp 2, row .sbcEb .imm 2,
   row .cpx .abs 4, row .sbc .abs 4, row .inc .abs 6, slot 6]

/-- Opcodes 0xF0 to 0xFF. -/
def tableRowF : List Entry :=
  [row .beq .rel 2, row .sbc .izy 5, slot 2, slot 8,
   slot 4, row .sbc .zpx 4, row .inc .zpx 6, slot 6,
   row .sed .imp 2, row .sbc .aby 4, slot 2, slot 7,
   slot 4, row .sbc .abx 4, row .inc .abx 7, slot 7]

/-- TABLE, one list a high nibble (30_encoding.md R84 to R86). -/
def table : List (List Entry) :=
  [tableRow0, tableRow1, tableRow2, tableRow3, tableRow4, tableRow5, tableRow6, tableRow7] ++
  [tableRow8, tableRow9, tableRowA, tableRowB, tableRowC, tableRowD, tableRowE, tableRowF]

/-- TABLE[opcode] (40_step_and_dispatch.md R101, R102). -/
def entry (opcode : Byte) : Entry :=
  (table.getD (opcode.toNat / 16) []).getD (opcode.toNat % 16) (slot 2)

/-- The operand bytes a mode consumes (30_encoding.md R81). -/
def Format.operandBytes : Format → Nat
  | .imp => 0
  | .imm | .zp0 | .zpx | .zpy | .rel | .izx | .izy => 1
  | .abs | .abx | .aby | .ind => 2

/-- The six trap opcodes whose operation signals an extra cycle (30_encoding.md R87). -/
def signallingTraps : List Byte := [0x1C, 0x3C, 0x5C, 0x7C, 0xDC, 0xFC]

/-- The operation signal `o` of a table entry (30_encoding.md R88). -/
def opSignal (opcode : Byte) : Bool :=
  match (entry opcode).op with
  | .adc | .and | .cmp | .eor | .lda | .ldx | .ldy | .ora | .sbc | .sbcEb => true
  | .trap => signallingTraps.contains opcode
  | _ => false

/-- The mnemonic field, for disassembly only (30_encoding.md R86, R88). -/
def Op.diagnostic : Op → String
  | .lda => "LDA" | .ldx => "LDX" | .ldy => "LDY" | .sta => "STA" | .stx => "STX" | .sty => "STY"
  | .tax => "TAX" | .tay => "TAY" | .tsx => "TSX" | .txa => "TXA" | .txs => "TXS" | .tya => "TYA"
  | .adc => "ADC" | .sbc => "SBC" | .and => "AND" | .ora => "ORA" | .eor => "EOR" | .bit => "BIT"
  | .cmp => "CMP" | .cpx => "CPX" | .cpy => "CPY" | .inc => "INC" | .dec => "DEC"
  | .inx => "INX" | .iny => "INY" | .dex => "DEX" | .dey => "DEY"
  | .asl => "ASL" | .lsr => "LSR" | .rol => "ROL" | .ror => "ROR"
  | .bcc => "BCC" | .bcs => "BCS" | .beq => "BEQ" | .bne => "BNE"
  | .bmi => "BMI" | .bpl => "BPL" | .bvc => "BVC" | .bvs => "BVS"
  | .jmp => "JMP" | .jsr => "JSR" | .rts => "RTS"
  | .pha => "PHA" | .php => "PHP" | .pla => "PLA" | .plp => "PLP"
  | .clc => "CLC" | .cld => "CLD" | .cli => "CLI" | .clv => "CLV"
  | .sec => "SEC" | .sed => "SED" | .sei => "SEI"
  | .nop => "NOP" | .brk => "BRK" | .rti => "RTI"
  | .sbcEb | .trap => "???"

/-! ### Decoding -/

/-- A mode from its operand bytes: byte 1, then byte 2; two bytes are little-endian
(30_encoding.md R81, R83). A byte the format does not have is ignored. -/
def Format.mode (f : Format) (b1 b2 : Byte) : Mode :=
  match f with
  | .imp => .imp
  | .imm => .imm b1
  | .zp0 => .zp0 b1
  | .zpx => .zpx b1
  | .zpy => .zpy b1
  | .rel => .rel b1
  | .abs => .abs (join b2 b1)
  | .abx => .abx (join b2 b1)
  | .aby => .aby (join b2 b1)
  | .ind => .ind (join b2 b1)
  | .izx => .izx b1
  | .izy => .izy b1

/-- The instruction of an operation, its opcode (kept by a trap), its mode, and the operand bytes as a
byte and as a word for the instructions of one form. -/
def build (op : Op) (opcode : Byte) (m : Mode) (b : Byte) (w : Word) : Instr :=
  match op with
  | .lda => .lda m
  | .ldx => .ldx m
  | .ldy => .ldy m
  | .sta => .sta m
  | .stx => .stx m
  | .sty => .sty m
  | .tax => .tax
  | .tay => .tay
  | .tsx => .tsx
  | .txa => .txa
  | .txs => .txs
  | .tya => .tya
  | .adc => .adc m
  | .sbc => .sbc m
  | .and => .and m
  | .ora => .ora m
  | .eor => .eor m
  | .bit => .bit m
  | .cmp => .cmp m
  | .cpx => .cpx m
  | .cpy => .cpy m
  | .inc => .inc m
  | .dec => .dec m
  | .inx => .inx
  | .iny => .iny
  | .dex => .dex
  | .dey => .dey
  | .asl => .asl m
  | .lsr => .lsr m
  | .rol => .rol m
  | .ror => .ror m
  | .bcc => .bcc b
  | .bcs => .bcs b
  | .beq => .beq b
  | .bne => .bne b
  | .bmi => .bmi b
  | .bpl => .bpl b
  | .bvc => .bvc b
  | .bvs => .bvs b
  | .jmp => .jmp m
  | .jsr => .jsr w
  | .rts => .rts
  | .pha => .pha
  | .php => .php
  | .pla => .pla
  | .plp => .plp
  | .clc => .clc
  | .cld => .cld
  | .cli => .cli
  | .clv => .clv
  | .sec => .sec
  | .sed => .sed
  | .sei => .sei
  | .nop => .nop
  | .brk => .brk
  | .rti => .rti
  | .sbcEb => .sbcEb b
  | .trap => .trap opcode

/-- The instruction of an opcode byte and the two bytes after it; a byte beyond the instruction's
length has no part in it (30_encoding.md R80, R82). Total: every opcode has an entry. -/
def ofBytes (opcode b1 b2 : Byte) : Instr :=
  build (entry opcode).op opcode ((entry opcode).format.mode b1 b2) b1 (join b2 b1)

/-- Why bytes are no instruction: only that some are missing; no opcode is illegal (R80, R85). -/
inductive DecodeError where
  | noOpcode
  | truncated
deriving DecidableEq, Repr

/-- Decode the first instruction of a byte list and give the rest (30_encoding.md R82). -/
def decode : List Byte → Except DecodeError (Instr × List Byte)
  | [] => .error .noOpcode
  | opcode :: rest =>
    match (entry opcode).format.operandBytes, rest with
    | 0, rest => .ok (ofBytes opcode 0 0, rest)
    | 1, b1 :: rest => .ok (ofBytes opcode b1 0, rest)
    | 2, b1 :: b2 :: rest => .ok (ofBytes opcode b1 b2, rest)
    | _, _ => .error .truncated

/-- The bytes of a table word: bit 0 is the least significant bit of the first byte; bits from
`nbits` up are 0. -/
def tableBytes (nbits w : Nat) : List Byte :=
  let v := w % 2 ^ nbits
  [BitVec.ofNat 8 v, BitVec.ofNat 8 (v / 256), BitVec.ofNat 8 (v / 65536)]

/-- The instruction the decoder reads from a word of spec/opcode_table.json. -/
def decodeTableWord (nbits w : Nat) : Option Instr :=
  match decode (tableBytes nbits w) with
  | .ok (i, _) => some i
  | .error _ => none

/-! ### Encoding -/

/-- The opcodes of an operation, by mode (30_encoding.md R84, the map by mnemonic, and R86). -/
def opcodesOf : Op → List (Format × Byte)
  | .adc => [(.imm, 0x69), (.zp0, 0x65), (.zpx, 0x75), (.abs, 0x6D), (.abx, 0x7D), (.aby, 0x79), (.izx, 0x61), (.izy, 0x71)]
  | .and => [(.imm, 0x29), (.zp0, 0x25), (.zpx, 0x35), (.abs, 0x2D), (.abx, 0x3D), (.aby, 0x39), (.izx, 0x21), (.izy, 0x31)]
  | .asl => [(.imp, 0x0A), (.zp0, 0x06), (.zpx, 0x16), (.abs, 0x0E), (.abx, 0x1E)]
  | .bcc => [(.rel, 0x90)]
  | .bcs => [(.rel, 0xB0)]
  | .beq => [(.rel, 0xF0)]
  | .bmi => [(.rel, 0x30)]
  | .bne => [(.rel, 0xD0)]
  | .bpl => [(.rel, 0x10)]
  | .bvc => [(.rel, 0x50)]
  | .bvs => [(.rel, 0x70)]
  | .bit => [(.zp0, 0x24), (.abs, 0x2C)]
  | .brk => [(.imp, 0x00)]
  | .clc => [(.imp, 0x18)]
  | .cld => [(.imp, 0xD8)]
  | .cli => [(.imp, 0x58)]
  | .clv => [(.imp, 0xB8)]
  | .cmp => [(.imm, 0xC9), (.zp0, 0xC5), (.zpx, 0xD5), (.abs, 0xCD), (.abx, 0xDD), (.aby, 0xD9), (.izx, 0xC1), (.izy, 0xD1)]
  | .cpx => [(.imm, 0xE0), (.zp0, 0xE4), (.abs, 0xEC)]
  | .cpy => [(.imm, 0xC0), (.zp0, 0xC4), (.abs, 0xCC)]
  | .dec => [(.zp0, 0xC6), (.zpx, 0xD6), (.abs, 0xCE), (.abx, 0xDE)]
  | .dex => [(.imp, 0xCA)]
  | .dey => [(.imp, 0x88)]
  | .eor => [(.imm, 0x49), (.zp0, 0x45), (.zpx, 0x55), (.abs, 0x4D), (.abx, 0x5D), (.aby, 0x59), (.izx, 0x41), (.izy, 0x51)]
  | .inc => [(.zp0, 0xE6), (.zpx, 0xF6), (.abs, 0xEE), (.abx, 0xFE)]
  | .inx => [(.imp, 0xE8)]
  | .iny => [(.imp, 0xC8)]
  | .jmp => [(.abs, 0x4C), (.ind, 0x6C)]
  | .jsr => [(.abs, 0x20)]
  | .lda => [(.imm, 0xA9), (.zp0, 0xA5), (.zpx, 0xB5), (.abs, 0xAD), (.abx, 0xBD), (.aby, 0xB9), (.izx, 0xA1), (.izy, 0xB1)]
  | .ldx => [(.imm, 0xA2), (.zp0, 0xA6), (.zpy, 0xB6), (.abs, 0xAE), (.aby, 0xBE)]
  | .ldy => [(.imm, 0xA0), (.zp0, 0xA4), (.zpx, 0xB4), (.abs, 0xAC), (.abx, 0xBC)]
  | .lsr => [(.imp, 0x4A), (.zp0, 0x46), (.zpx, 0x56), (.abs, 0x4E), (.abx, 0x5E)]
  | .nop => [(.imp, 0xEA)]
  | .ora => [(.imm, 0x09), (.zp0, 0x05), (.zpx, 0x15), (.abs, 0x0D), (.abx, 0x1D), (.aby, 0x19), (.izx, 0x01), (.izy, 0x11)]
  | .pha => [(.imp, 0x48)]
  | .php => [(.imp, 0x08)]
  | .pla => [(.imp, 0x68)]
  | .plp => [(.imp, 0x28)]
  | .rol => [(.imp, 0x2A), (.zp0, 0x26), (.zpx, 0x36), (.abs, 0x2E), (.abx, 0x3E)]
  | .ror => [(.imp, 0x6A), (.zp0, 0x66), (.zpx, 0x76), (.abs, 0x6E), (.abx, 0x7E)]
  | .rti => [(.imp, 0x40)]
  | .rts => [(.imp, 0x60)]
  | .sbc => [(.imm, 0xE9), (.zp0, 0xE5), (.zpx, 0xF5), (.abs, 0xED), (.abx, 0xFD), (.aby, 0xF9), (.izx, 0xE1), (.izy, 0xF1)]
  | .sec => [(.imp, 0x38)]
  | .sed => [(.imp, 0xF8)]
  | .sei => [(.imp, 0x78)]
  | .sta => [(.zp0, 0x85), (.zpx, 0x95), (.abs, 0x8D), (.abx, 0x9D), (.aby, 0x99), (.izx, 0x81), (.izy, 0x91)]
  | .stx => [(.zp0, 0x86), (.zpy, 0x96), (.abs, 0x8E)]
  | .sty => [(.zp0, 0x84), (.zpx, 0x94), (.abs, 0x8C)]
  | .tax => [(.imp, 0xAA)]
  | .tay => [(.imp, 0xA8)]
  | .tsx => [(.imp, 0xBA)]
  | .txa => [(.imp, 0x8A)]
  | .txs => [(.imp, 0x9A)]
  | .tya => [(.imp, 0x98)]
  | .sbcEb => [(.imm, 0xEB)]
  | .trap => []

/-- The opcode of an instruction, `none` for a term that is not well formed. -/
def Instr.opcode? : Instr → Option Byte
  | .trap opcode => if trapSlots.contains opcode then some opcode else none
  | i => (opcodesOf i.op).lookup i.mode.format

/-- The operand bytes of a mode, low byte first (30_encoding.md R81, R83). -/
def Mode.bytes : Mode → List Byte
  | .imp => []
  | .imm b | .zp0 b | .zpx b | .zpy b | .rel b | .izx b | .izy b => [b]
  | .abs w | .abx w | .aby w | .ind w => [lo w, hi w]

/-- The bytes of a well-formed instruction, opcode first (30_encoding.md R80). -/
def encode (i : Instr) : List Byte :=
  match i.opcode? with
  | some opcode => opcode :: i.mode.bytes
  | none => []

end Sys2Proof
end

