-- ==== Sys2Proof/Machine/State.lean ====
section
/-! DEFINITION. The machine's state as plain data (10_state.md R20 to R40), the host's events, the
reasons a step can stop, and the state right after `Reset` (70_reset_and_hazards.md R270). -/

namespace Sys2Proof.Machine

/-- The flags of `P`, in bit order from 0 (10_state.md R26). -/
inductive Flag where
  /-- Carry, bit 0. -/
  | c
  /-- Zero, bit 1. -/
  | z
  /-- Interrupt-disable, bit 2. -/
  | i
  /-- Decimal-mode, bit 3: stored only. -/
  | d
  /-- Break, bit 4. -/
  | b
  /-- Unused, bit 5. -/
  | u
  /-- Overflow, bit 6. -/
  | v
  /-- Negative, bit 7. -/
  | n
deriving DecidableEq, Repr

/-- The host's four events (00_scope.md R12). -/
inductive Event where
  | reset
  | tick
  | irq
  | nmi
deriving DecidableEq, Repr

/-- The bytes of the plain-memory devices that differ from `Config.memoryFill`, by bus address,
addresses strictly rising (20_memory.md R50, R63). -/
abbrev Memory := List Host.Cell

/-- The Processor State (10_state.md R20), the memory behind the bus, the bus trace, and the
parameters and inputs of the machine. -/
structure State where
  /-- `A` (R21). -/
  a : Byte
  /-- `X` (R22). -/
  x : Byte
  /-- `Y` (R23). -/
  y : Byte
  /-- `SP` (R24). -/
  sp : Byte
  /-- `pc` (R25). -/
  pc : Word
  /-- `P` (R26), read and written by flag through `State.flag` and `setFlag`. -/
  p : Byte
  /-- The remaining-cycle countdown (R37). -/
  cycles : Nat
  /-- `total_cycles` (R38). -/
  totalCycles : Nat
  /-- Transient: the current opcode byte (R36). -/
  opcode : Byte
  /-- Transient: the operand byte (R36). -/
  fetched : Byte
  /-- Transient: the 16-bit working value (R36). -/
  temp : Word
  /-- Transient: the resolved address (R36). -/
  addrAbs : Word
  /-- Transient: the resolved displacement (R36). -/
  addrRel : Word
  /-- The contents of plain memory (20_memory.md R63). -/
  mem : Memory
  /-- Every bus transaction so far, newest first (00_scope.md R12, 20_memory.md R64; log 6). -/
  bus : List BusOp
  /-- The host's next calls, oldest first; past its end the host ticks (the model's own, log 4). -/
  hostCalls : List Event
  /-- Whether a `Reset` has happened (70_reset_and_hazards.md R271; log 5). -/
  hasReset : Bool
  /-- DEVICES and UNDOC_CYCLES (00_scope.md R5; log 1). No event changes it. -/
  platform : Platform
deriving DecidableEq, Repr

/-- Why the machine stops with a fault. It has no constructor: the core raises no exception and cannot
halt (60_exceptions.md R240, R258), so nobody raises one. -/
inductive Fault where
deriving DecidableEq, Repr

/-- Why a step has no meaning. -/
inductive Refusal where
  /-- Raised by an arm of `exec` for an instruction without a meaning: none is left. Safe. -/
  | notModelled (mnemonic : String)
  /-- Raised by `event` for `Tick`, `Irq` or `Nmi` before the first `Reset`, to which the spec gives no
  meaning (70_reset_and_hazards.md R271). Safe: the machine only stops where the spec says so. -/
  | eventBeforeReset
deriving DecidableEq, Repr

/-- The machine right after the first `Reset` (10_state.md R40, 70_reset_and_hazards.md R270), on the
platform of 92_eei_decisions.md D28 with nothing in memory (DESIGN CHOICE, log 1 and log 2): both
vector bytes read 0x00, so `pc` is 0x0000, and the two reads are the bus trace. -/
def State.reset : State where
  a := 0x00
  x := 0x00
  y := 0x00
  sp := 0xFD
  pc := 0x0000
  p := 0x20
  cycles := 8
  totalCycles := 0
  opcode := 0x00
  fetched := 0x00
  temp := 0x0000
  addrAbs := 0x0000
  addrRel := 0x0000
  mem := []
  bus := [.read 0xFFFD 0x00, .read 0xFFFC 0x00]
  hostCalls := []
  hasReset := true
  platform := Config.testPlatform

end Sys2Proof.Machine
end

