-- ==== Sys2Proof/Machine/Flags.lean ====
section
/-! DEFINITION. The flags of `P` and every flag computation of the spec (10_state.md R26 to R35,
40_step_and_dispatch.md R107, 43_arithmetic_logic.md R161, R162, R167). -/

namespace Sys2Proof.Machine

/-- The bit a flag has in `P` (10_state.md R26). -/
def Flag.bit : Flag → Nat
  | .c => 0
  | .z => 1
  | .i => 2
  | .d => 3
  | .b => 4
  | .u => 5
  | .v => 6
  | .n => 7

/-- The mask of a flag (10_state.md R26). -/
def Flag.mask (f : Flag) : Byte := BitVec.twoPow 8 f.bit

/-- A flag of a status byte. -/
def getFlag (p : Byte) (f : Flag) : Bool := p.getLsbD f.bit

/-- Write one flag and leave the other bits alone (10_state.md R35). -/
def setFlag (p : Byte) (f : Flag) (v : Bool) : Byte :=
  if v then p ||| f.mask else p &&& ~~~f.mask

/-- `P.f`. -/
def State.flag (s : State) (f : Flag) : Bool := getFlag s.p f

/-- `P.f <- v`. -/
def State.withFlag (s : State) (f : Flag) (v : Bool) : State := { s with p := setFlag s.p f v }

/-- `SetZN(v)` on a status byte (40_step_and_dispatch.md R107). -/
def znFlags (p v : Byte) : Byte := setFlag (setFlag p .z (v == 0)) .n v.msb

/-- `SetZN(v)` (40_step_and_dispatch.md R107). -/
def State.setZN (s : State) (v : Byte) : State := { s with p := znFlags s.p v }

/-- The 16-bit intermediate of an add with carry (43_arithmetic_logic.md R161). -/
def addTemp (a m : Byte) (carry : Bool) : Word := zext16 a + zext16 m + zext16 (BitVec.ofNat 8 carry.toNat)

/-- The overflow of an add: both operands share a sign differing from the result's (R161). -/
def addOverflow (a m : Byte) (temp : Word) : Bool :=
  (a.getLsbD 7 == m.getLsbD 7) && (a.getLsbD 7 != temp.getLsbD 7)

/-- `A + m + C` with its flags: the operation of ADC on `M`, and of SBC on the complement of `M`
(43_arithmetic_logic.md R161, R162). -/
def State.addWithCarry (s : State) (m : Byte) : State :=
  let temp := addTemp s.a m (s.flag .c)
  let s1 := { s with temp := temp }
  let s2 := (s1.withFlag .c (temp.getLsbD 8)).withFlag .v (addOverflow s.a m temp)
  ({ s2 with a := lo temp }).setZN (lo temp)

/-- The unsigned comparison of a register with an operand (43_arithmetic_logic.md R167). -/
def State.compare (s : State) (reg m : Byte) : State :=
  let temp := zext16 reg - zext16 m
  let s1 := { s with temp := temp }
  ((s1.withFlag .c (decide (m ≤ reg))).withFlag .z (lo temp == 0)).withFlag .n (temp.getLsbD 7)

end Sys2Proof.Machine
end

