-- ==== Sys2Proof/Machine/Ops.lean ====
section
/-! DEFINITION. The shared operations over memory, the bus, the stack and the control state:
20_memory.md R50 to R71, 46_stack_flags_system.md R211, the interrupt entry and return of
60_exceptions.md R242 to R250, `Reset` of 70_reset_and_hazards.md R270, and the instruction fetch of
40_step_and_dispatch.md R101. -/

namespace Sys2Proof.Machine

/-! ### Plain memory -/

/-- The byte memory holds at an address. -/
def Memory.byteAt : Memory → Nat → Byte
  | [], _ => Config.memoryFill
  | (k, v) :: rest, a => if k = a then v else Memory.byteAt rest a

/-- Memory without an entry for an address. -/
def Memory.erase : Memory → Nat → Memory
  | [], _ => []
  | (k, v) :: rest, a => if k = a then Memory.erase rest a else (k, v) :: Memory.erase rest a

/-- Enter a cell before the first larger address. -/
def Memory.insert : Memory → Nat → Byte → Memory
  | [], a, v => [(a, v)]
  | (k, w) :: rest, a, v => if a < k then (a, v) :: (k, w) :: rest else (k, w) :: Memory.insert rest a v

/-- Store a byte, keeping the canonical form: the fill value is not listed. -/
def Memory.write (m : Memory) (a : Nat) (v : Byte) : Memory :=
  if v = Config.memoryFill then m.erase a else (m.erase a).insert a v

/-- Every listed address is at least `low` and below 65536, addresses rise strictly, and no entry
holds the fill value. -/
def Memory.wfFrom : Nat → Memory → Bool
  | _, [] => true
  | low, (k, v) :: rest =>
    decide (low ≤ k) && decide (k < 65536) && decide (v ≠ Config.memoryFill) && Memory.wfFrom (k + 1) rest

/-- The canonical form of memory. -/
def Memory.wf (m : Memory) : Bool := Memory.wfFrom 0 m

/-! ### The bus (20_memory.md R51 to R55) -/

/-- `start_address <= a <= end_address` (R52). -/
def deviceCovers (d : Device) (a : Word) : Bool := decide (d.first ≤ a) && decide (a ≤ d.last)

/-- The device that handles an address: the first registration that covers it (R52). -/
def deviceAt (p : Platform) (a : Word) : Option Device := p.devices.find? fun d => deviceCovers d a

/-- Whether a write to an address is stored (R63). -/
def ramAt (p : Platform) (a : Word) : Bool :=
  match deviceAt p a with
  | some d => d.kind == .ram
  | none => false

/-- Whether an address is plain or read-only memory (R63). -/
def plainAt (p : Platform) (a : Word) : Bool :=
  match deviceAt p a with
  | some d => d.kind != .io
  | none => false

/-- The byte a bus read of an address returns now (R53, R55, R63, R71). -/
def State.readValue (s : State) (a : Word) : Byte :=
  match deviceAt s.platform a with
  | none => 0x00
  | some d =>
    match d.kind with
    | .ram => s.mem.byteAt a.toNat
    | .rom => s.mem.byteAt a.toNat
    | .io => Config.deviceByte s.bus a

/-- `MemRead(a, 1)` (R55): the byte, and the state with the transaction in the trace. -/
def State.memRead (s : State) (a : Word) : Byte × State :=
  (s.readValue a, { s with bus := .read a (s.readValue a) :: s.bus })

/-- `MemWrite(a, 1, v)` (R55): plain memory stores, everything else drops the byte or, being a device
of its own, only sees the transaction (R53, R63, R71). -/
def State.memWrite (s : State) (a : Word) (v : Byte) : State :=
  { s with
    mem := if ramAt s.platform a then s.mem.write a.toNat v else s.mem
    bus := .write a v :: s.bus }

/-- The host's observation of a byte with `side_effect_free = true` (R54, 60_exceptions.md R257): no
state changes, so it is a function only. -/
def State.observe (s : State) (a : Word) : Byte :=
  match deviceAt s.platform a with
  | none => 0x00
  | some d =>
    match d.kind with
    | .ram => s.mem.byteAt a.toNat
    | .rom => s.mem.byteAt a.toNat
    | .io => Config.observedByte s.bus a

/-- `Read16(a_lo, a_hi)`: low byte first (R58). -/
def State.read16 (s : State) (aLo aHi : Word) : Word × State :=
  let l := s.memRead aLo
  let h := l.2.memRead aHi
  (join h.1 l.1, h.2)

/-! ### The stack (20_memory.md R62, 46_stack_flags_system.md R211) -/

/-- The stack location a stack pointer names: `0x0100 + SP` (10_state.md R24). -/
def stackAddr (sp : Byte) : Word := 0x0100 + zext16 sp

/-- `Push(v)` (R62). -/
def State.push (s : State) (v : Byte) : State :=
  { s.memWrite (stackAddr s.sp) v with sp := s.sp - 1 }

/-- `Pop()` (R62). -/
def State.pop (s : State) : Byte × State :=
  ({ s with sp := s.sp + 1 }).memRead (stackAddr (s.sp + 1))

/-- `Push(hi(w)); Push(lo(w))`. -/
def State.pushWord (s : State) (w : Word) : State := (s.push (hi w)).push (lo w)

/-- `l <- Pop(); h <- Pop()` as `{h, l}`. -/
def State.popWord (s : State) : Word × State :=
  let l := s.pop
  let h := l.2.pop
  (join h.1 l.1, h.2)

/-- The status byte a push leaves in memory, with Break `b` (R211). -/
def pushedStatus (p : Byte) (b : Bool) : Byte :=
  (p &&& 0xCF) ||| 0x20 ||| (if b then 0x10 else 0x00)

/-- The status register after popping `v` (R211). -/
def poppedStatus (p v : Byte) : Byte := (v &&& 0xCF) ||| 0x20 ||| (p &&& 0x10)

/-- `PushP(b)` (R211). -/
def State.pushP (s : State) (b : Bool) : State := s.push (pushedStatus s.p b)

/-- `PopP()` (R211). -/
def State.popP (s : State) : State :=
  let v := s.pop
  { v.2 with p := poppedStatus v.2.p v.1 }

/-! ### Interrupt entry and return (60_exceptions.md R242 to R250) -/

/-- The push and vector sequence that `Irq`, `Nmi` and `BRK` share: `pc` high, low, then the status
with Break `b`; then Interrupt-disable; then `pc` from the vector at `vector`, `vector + 1`
(R242, R243, 46_stack_flags_system.md R224). -/
def State.enterInterrupt (s : State) (b : Bool) (vector : Word) : State :=
  let pushed := (s.pushWord s.pc).pushP b
  let r := (pushed.withFlag .i true).read16 vector (vector + 1)
  { r.2 with pc := r.1 }

/-- The return: status, then `pc` low and high (R250, 46_stack_flags_system.md R225). -/
def State.returnFromInterrupt (s : State) : State :=
  let r := s.popP.popWord
  { r.2 with pc := r.1 }

/-- The `Irq` event (R242): nothing at all when Interrupt-disable is set. -/
def State.irq (s : State) : State :=
  if s.flag .i then s else { s.enterInterrupt false 0xFFFE with cycles := 7 }

/-- The `Nmi` event (R243). -/
def State.nmi (s : State) : State := { s.enterInterrupt false 0xFFFA with cycles := 8 }

/-- The `Reset` event (70_reset_and_hazards.md R270). -/
def State.resetEvent (s : State) : State :=
  let r := s.read16 0xFFFC 0xFFFD
  { r.2 with
    a := 0x00
    x := 0x00
    y := 0x00
    sp := 0xFD
    p := 0x20
    pc := r.1
    opcode := 0x00
    fetched := 0x00
    temp := 0x0000
    addrAbs := 0x0000
    addrRel := 0x0000
    cycles := 8
    hasReset := true }

/-! ### Fetch (40_step_and_dispatch.md R101, 41_addressing_modes.md R120) -/

/-- `b <- MemRead(pc, 1); pc <- pc + 1; b`. -/
def State.nextByte (s : State) : Byte × State :=
  let r := s.memRead s.pc
  (r.1, { r.2 with pc := s.pc + 1 })

/-- The opcode read: `opcode <- MemRead(pc, 1); pc <- pc + 1` (R101). -/
def State.fetchOpcode (s : State) : State :=
  let r := s.nextByte
  { r.2 with opcode := r.1 }

/-- Read the opcode and the operand bytes its mode consumes, in order, leaving `pc` past them
(R101, R111; log 7): the instruction and the state it runs in. -/
def State.fetchInstr (s : State) : Instr × State :=
  let o := s.fetchOpcode
  match (entry o.opcode).format.operandBytes with
  | 0 => (ofBytes o.opcode 0 0, o)
  | 1 =>
    let b := o.nextByte
    (ofBytes o.opcode b.1 0, b.2)
  | _ =>
    let l := o.nextByte
    let h := l.2.nextByte
    (ofBytes o.opcode l.1 h.1, h.2)

/-! ### The countdown -/

/-- `cycles <- n` (R101). -/
def State.startCycles (s : State) (n : Nat) : State := { s with cycles := n }

/-- `cycles <- cycles + 1` when both extra-cycle signals agree (R104). -/
def State.penalty (s : State) (extra : Bool) : State := { s with cycles := s.cycles + extra.toNat }

/-- The base cost of a trap slot: UNDOC_CYCLES (00_scope.md R5), by default the table's. -/
def trapCycles (p : Platform) (opcode : Byte) : Nat :=
  (p.undocCycles.lookup opcode).getD (entry opcode).baseCycles

end Sys2Proof.Machine
end

