-- ==== Sys2Proof/Machine/Operands.lean ====
section
/-! DEFINITION. The twelve addressing-mode routines (41_addressing_modes.md R120 to R133), the shared
operand fetch and result store (40_step_and_dispatch.md R105, R106), the base costs of the operand
forms (70_reset_and_hazards.md R278), and the shapes the instructions share. -/

namespace Sys2Proof.Machine

/-- A base address plus an index, and whether the sum crosses a page (R128, R129, R132;
00_scope.md R10). -/
def indexed (base : Word) (index : Byte) : Word × Bool :=
  (base + zext16 index, hi (base + zext16 index) != hi base)

/-- Where the high byte of an indirect target is read: the page-wrap quirk (R130). -/
def indirectHigh (ptr : Word) : Word := if lo ptr = 0xFF then ptr &&& 0xFF00 else ptr + 1

/-- An addressing-mode routine (R121 to R132), run when `pc` is already past the operand bytes: the
state it leaves and its page-crossing signal `m`. -/
def resolve (m : Mode) (s : State) : State × Bool :=
  match m with
  | .imp => ({ s with fetched := s.a }, false)
  | .imm _ => ({ s with addrAbs := s.pc - 1 }, false)
  | .zp0 b => ({ s with addrAbs := zext16 b }, false)
  | .zpx b => ({ s with addrAbs := zext16 (b + s.x) }, false)
  | .zpy b => ({ s with addrAbs := zext16 (b + s.y) }, false)
  | .rel b => ({ s with addrRel := sext16 b }, false)
  | .abs w => ({ s with addrAbs := w }, false)
  | .abx w => ({ s with addrAbs := (indexed w s.x).1 }, (indexed w s.x).2)
  | .aby w => ({ s with addrAbs := (indexed w s.y).1 }, (indexed w s.y).2)
  | .ind w =>
    let r := s.read16 w (indirectHigh w)
    ({ r.2 with addrAbs := r.1 }, false)
  | .izx b =>
    let r := s.read16 (zext16 (b + s.x)) (zext16 (b + s.x + 1))
    ({ r.2 with addrAbs := r.1 }, false)
  | .izy b =>
    let r := s.read16 (zext16 b) (zext16 (b + 1))
    ({ r.2 with addrAbs := (indexed r.1 s.y).1 }, (indexed r.1 s.y).2)

/-- `Operand()` (40_step_and_dispatch.md R105): the accumulator, the immediate byte already read from
the instruction stream (log 7), or one bus read of `addr_abs`. -/
def operand (m : Mode) (s : State) : Byte × State :=
  match m with
  | .imp => (s.a, { s with fetched := s.a })
  | .imm b => (b, { s with fetched := b })
  | _ =>
    let r := s.memRead s.addrAbs
    (r.1, { r.2 with fetched := r.1 })

/-- `WriteBack(v)` (40_step_and_dispatch.md R106). -/
def writeBack (m : Mode) (s : State) (v : Byte) : State :=
  match m with
  | .imp => { s with a := v }
  | _ => s.memWrite s.addrAbs v

/-! ### Base costs (70_reset_and_hazards.md R278) -/

/-- Loads, arithmetic, logic, compares and BIT. -/
def readCycles : Mode → Nat
  | .zp0 _ => 3
  | .zpx _ | .zpy _ | .abs _ | .abx _ | .aby _ => 4
  | .izx _ => 6
  | .izy _ => 5
  | _ => 2

/-- Stores. -/
def storeCycles : Mode → Nat
  | .zp0 _ => 3
  | .abx _ | .aby _ => 5
  | .izx _ | .izy _ => 6
  | _ => 4

/-- Shifts, rotates, INC and DEC. -/
def modifyCycles : Mode → Nat
  | .imp => 2
  | .zp0 _ => 5
  | .abx _ => 7
  | _ => 6

/-- JMP. -/
def jumpCycles : Mode → Nat
  | .ind _ => 5
  | _ => 3

/-! ### Shapes of instructions (40_step_and_dispatch.md R101, R104) -/

/-- The addressing-mode routine after the base cost is loaded. -/
def State.address (s : State) (base : Nat) (m : Mode) : State × Bool := resolve m (s.startCycles base)

/-- An instruction that reads its operand: mode routine, `Operand()`, the operation, the penalty. -/
def State.reading (s : State) (base : Nat) (signal : Bool) (m : Mode) (use : State → Byte → State) : State :=
  let r := s.address base m
  let o := operand m r.1
  (use o.2 o.1).penalty (signal && r.2)

/-- An instruction that stores a register: mode routine, one write, no read (R140). -/
def State.storing (s : State) (m : Mode) (v : Byte) : State :=
  let r := s.address (storeCycles m) m
  r.1.memWrite r.1.addrAbs v

/-- An Implied instruction: the accumulator is staged, then the operation runs (R121). -/
def State.implied (s : State) (base : Nat) (op : State → State) : State := op (s.address base .imp).1

end Sys2Proof.Machine
end

