-- ==== Sys2Proof/Machine/Arithmetic.lean ====
section
/-! DEFINITION. Arithmetic, logic, compares, increments and decrements (43_arithmetic_logic.md R160 to R176). -/

namespace Sys2Proof.Machine

/-- ADC (R161): `A + M + C`, binary whatever the Decimal flag (D8). -/
def execAdc (m : Mode) (s : State) : Host.Outcome State Fault Refusal :=
  .next (s.reading (readCycles m) true m fun t v => t.addWithCarry v)

/-- SBC (R162): ADC of the operand's complement. -/
def execSbc (m : Mode) (s : State) : Host.Outcome State Fault Refusal :=
  .next (s.reading (readCycles m) true m fun t v => t.addWithCarry (v ^^^ 0xFF))

/-- Opcode 0xEB (R227): exactly SBC immediate. -/
def execSbcEb (b : Byte) (s : State) : Host.Outcome State Fault Refusal :=
  .next (s.reading 2 true (.imm b) fun t v => t.addWithCarry (v ^^^ 0xFF))

/-- AND (R163): `A <- A & Operand(); SetZN(A)`. -/
def execAnd (m : Mode) (s : State) : Host.Outcome State Fault Refusal :=
  .next (s.reading (readCycles m) true m fun t v => ({ t with a := t.a &&& v }).setZN (t.a &&& v))

/-- ORA (R164): `A <- A | Operand(); SetZN(A)`. -/
def execOra (m : Mode) (s : State) : Host.Outcome State Fault Refusal :=
  .next (s.reading (readCycles m) true m fun t v => ({ t with a := t.a ||| v }).setZN (t.a ||| v))

/-- EOR (R165): `A <- A ^ Operand(); SetZN(A)`. -/
def execEor (m : Mode) (s : State) : Host.Outcome State Fault Refusal :=
  .next (s.reading (readCycles m) true m fun t v => ({ t with a := t.a ^^^ v }).setZN (t.a ^^^ v))

/-- BIT (R166): Z from `A & M`, N and V from bits 7 and 6 of `M`; `A` unchanged. -/
def execBit (m : Mode) (s : State) : Host.Outcome State Fault Refusal :=
  .next (s.reading (readCycles m) false m fun t v =>
    ((t.withFlag .z (t.a &&& v == 0)).withFlag .n (v.getLsbD 7)).withFlag .v (v.getLsbD 6))

/-- CMP (R167): C, Z, N from the unsigned comparison of `A` with `M`; nothing stored. -/
def execCmp (m : Mode) (s : State) : Host.Outcome State Fault Refusal :=
  .next (s.reading (readCycles m) true m fun t v => t.compare t.a v)

/-- CPX (R168): C, Z, N from the unsigned comparison of `X` with `M`; nothing stored. -/
def execCpx (m : Mode) (s : State) : Host.Outcome State Fault Refusal :=
  .next (s.reading (readCycles m) false m fun t v => t.compare t.x v)

/-- CPY (R169): C, Z, N from the unsigned comparison of `Y` with `M`; nothing stored. -/
def execCpy (m : Mode) (s : State) : Host.Outcome State Fault Refusal :=
  .next (s.reading (readCycles m) false m fun t v => t.compare t.y v)

/-- INC (R170): one read, one write of the byte + 1 modulo 256; Z, N. -/
def execInc (m : Mode) (s : State) : Host.Outcome State Fault Refusal :=
  .next (s.reading (modifyCycles m) false m fun t v => (t.memWrite t.addrAbs (v + 1)).setZN (v + 1))

/-- DEC (R171): one read, one write of the byte - 1 modulo 256; Z, N. -/
def execDec (m : Mode) (s : State) : Host.Outcome State Fault Refusal :=
  .next (s.reading (modifyCycles m) false m fun t v => (t.memWrite t.addrAbs (v - 1)).setZN (v - 1))

/-- INX (R172): `X <- X + 1` modulo 256; Z, N. -/
def execInx (s : State) : Host.Outcome State Fault Refusal :=
  .next (s.implied 2 fun t => ({ t with x := t.x + 1 }).setZN (t.x + 1))

/-- INY (R173): `Y <- Y + 1` modulo 256; Z, N. -/
def execIny (s : State) : Host.Outcome State Fault Refusal :=
  .next (s.implied 2 fun t => ({ t with y := t.y + 1 }).setZN (t.y + 1))

/-- DEX (R174): `X <- X - 1` modulo 256; Z, N. -/
def execDex (s : State) : Host.Outcome State Fault Refusal :=
  .next (s.implied 2 fun t => ({ t with x := t.x - 1 }).setZN (t.x - 1))

/-- DEY (R175): `Y <- Y - 1` modulo 256; Z, N. -/
def execDey (s : State) : Host.Outcome State Fault Refusal :=
  .next (s.implied 2 fun t => ({ t with y := t.y - 1 }).setZN (t.y - 1))

end Sys2Proof.Machine
end

