-- ==== Sys2Proof/Machine/Branch.lean ====
section
/-! DEFINITION. Branches, jumps, subroutine call and return (45_branch_jump.md R190 to R202). -/

namespace Sys2Proof.Machine

/-- `Branch(cond)` (R191) after the Relative mode: one more cycle when taken, another when the target
is in another page than the post-fetch `pc`. -/
def State.branch (s : State) (cond : Bool) (b : Byte) : State :=
  let t := (s.address 2 (.rel b)).1
  if cond then
    let target := t.pc + t.addrRel
    { t with
      cycles := t.cycles + 1 + (hi target != hi t.pc).toNat
      addrAbs := target
      pc := target }
  else t

/-- BCC (R192): `Branch(P.C = 0)`. -/
def execBcc (b : Byte) (s : State) : Host.Outcome State Fault Refusal :=
  .next (s.branch (!s.flag .c) b)

/-- BCS (R193): `Branch(P.C = 1)`. -/
def execBcs (b : Byte) (s : State) : Host.Outcome State Fault Refusal :=
  .next (s.branch (s.flag .c) b)

/-- BEQ (R194): `Branch(P.Z = 1)`. -/
def execBeq (b : Byte) (s : State) : Host.Outcome State Fault Refusal :=
  .next (s.branch (s.flag .z) b)

/-- BNE (R195): `Branch(P.Z = 0)`. -/
def execBne (b : Byte) (s : State) : Host.Outcome State Fault Refusal :=
  .next (s.branch (!s.flag .z) b)

/-- BMI (R196): `Branch(P.N = 1)`. -/
def execBmi (b : Byte) (s : State) : Host.Outcome State Fault Refusal :=
  .next (s.branch (s.flag .n) b)

/-- BPL (R197): `Branch(P.N = 0)`. -/
def execBpl (b : Byte) (s : State) : Host.Outcome State Fault Refusal :=
  .next (s.branch (!s.flag .n) b)

/-- BVC (R198): `Branch(P.V = 0)`. -/
def execBvc (b : Byte) (s : State) : Host.Outcome State Fault Refusal :=
  .next (s.branch (!s.flag .v) b)

/-- BVS (R199): `Branch(P.V = 1)`. -/
def execBvs (b : Byte) (s : State) : Host.Outcome State Fault Refusal :=
  .next (s.branch (s.flag .v) b)

/-- JMP (R200): `pc <- addr_abs`; the target is not read. -/
def execJmp (m : Mode) (s : State) : Host.Outcome State Fault Refusal :=
  let t := (s.address (jumpCycles m) m).1
  .next { t with pc := t.addrAbs }

/-- JSR (R201): push the address of its own last byte, high byte first; `pc <- addr_abs`. -/
def execJsr (w : Word) (s : State) : Host.Outcome State Fault Refusal :=
  let t := (s.address 6 (.abs w)).1
  .next { t.pushWord (t.pc - 1) with pc := t.addrAbs }

/-- RTS (R202): pop low, pop high; `pc` is one past the popped address. -/
def execRts (s : State) : Host.Outcome State Fault Refusal :=
  .next (s.implied 6 fun t =>
    let r := t.popWord
    { r.2 with pc := r.1 + 1 })

end Sys2Proof.Machine
end

