-- ==== Sys2Proof/Machine/Shift.lean ====
section
/-! DEFINITION. Shifts and rotates (44_shift_rotate.md R180 to R184). -/

namespace Sys2Proof.Machine

/-- The shape the shifts and rotates share (R180): read the operand, C from the bit shifted out, Z and
N from the result, store it where the operand came from. -/
def State.shifting (s : State) (m : Mode) (out : Byte → Bool) (result : Byte → Bool → Byte) : State :=
  s.reading (modifyCycles m) false m fun t v =>
    let r := result v (t.flag .c)
    writeBack m ((t.withFlag .c (out v)).setZN r) r

/-- ASL (R181): 0 enters bit 0, bit 7 goes to C. -/
def execAsl (m : Mode) (s : State) : Host.Outcome State Fault Refusal :=
  .next (s.shifting m (fun v => v.getLsbD 7) (fun v _ => v <<< 1))

/-- LSR (R182): 0 enters bit 7, bit 0 goes to C. -/
def execLsr (m : Mode) (s : State) : Host.Outcome State Fault Refusal :=
  .next (s.shifting m (fun v => v.getLsbD 0) (fun v _ => v >>> 1))

/-- ROL (R183): the old C enters bit 0, bit 7 goes to C. -/
def execRol (m : Mode) (s : State) : Host.Outcome State Fault Refusal :=
  .next (s.shifting m (fun v => v.getLsbD 7) (fun v c => (v <<< 1) ||| BitVec.ofNat 8 c.toNat))

/-- ROR (R184): the old C enters bit 7, bit 0 goes to C. -/
def execRor (m : Mode) (s : State) : Host.Outcome State Fault Refusal :=
  .next (s.shifting m (fun v => v.getLsbD 0) (fun v c => (BitVec.ofNat 8 c.toNat <<< 7) ||| (v >>> 1)))

end Sys2Proof.Machine
end

