-- ==== Sys2Proof/Machine/System.lean ====
section
/-! DEFINITION. Stack, flag and system instructions and the trap slots (46_stack_flags_system.md R210 to R228). -/

namespace Sys2Proof.Machine

/-- PHA (R212): `Push(A)`. -/
def execPha (s : State) : Host.Outcome State Fault Refusal :=
  .next (s.implied 3 fun t => t.push t.a)

/-- PHP (R213): `PushP(1)`; the register copy of `P` is unchanged. -/
def execPhp (s : State) : Host.Outcome State Fault Refusal :=
  .next (s.implied 3 fun t => t.pushP true)

/-- PLA (R214): `A <- Pop(); SetZN(A)`. -/
def execPla (s : State) : Host.Outcome State Fault Refusal :=
  .next (s.implied 4 fun t =>
    let v := t.pop
    ({ v.2 with a := v.1 }).setZN v.1)

/-- PLP (R215): `PopP()`. -/
def execPlp (s : State) : Host.Outcome State Fault Refusal :=
  .next (s.implied 4 fun t => t.popP)

/-- CLC (R216): `P.C <- 0`. -/
def execClc (s : State) : Host.Outcome State Fault Refusal :=
  .next (s.implied 2 fun t => t.withFlag .c false)

/-- CLD (R217): `P.D <- 0`. -/
def execCld (s : State) : Host.Outcome State Fault Refusal :=
  .next (s.implied 2 fun t => t.withFlag .d false)

/-- CLI (R218): `P.I <- 0`. -/
def execCli (s : State) : Host.Outcome State Fault Refusal :=
  .next (s.implied 2 fun t => t.withFlag .i false)

/-- CLV (R219): `P.V <- 0`. -/
def execClv (s : State) : Host.Outcome State Fault Refusal :=
  .next (s.implied 2 fun t => t.withFlag .v false)

/-- SEC (R220): `P.C <- 1`. -/
def execSec (s : State) : Host.Outcome State Fault Refusal :=
  .next (s.implied 2 fun t => t.withFlag .c true)

/-- SED (R221): `P.D <- 1`. -/
def execSed (s : State) : Host.Outcome State Fault Refusal :=
  .next (s.implied 2 fun t => t.withFlag .d true)

/-- SEI (R222): `P.I <- 1`. -/
def execSei (s : State) : Host.Outcome State Fault Refusal :=
  .next (s.implied 2 fun t => t.withFlag .i true)

/-- NOP (R223): nothing but the fetch. -/
def execNop (s : State) : Host.Outcome State Fault Refusal :=
  .next (s.implied 2 fun t => t)

/-- BRK (R224, R244): skip the padding byte, then the interrupt entry through 0xFFFE/F with Break set
in the pushed byte; never masked. -/
def execBrk (s : State) : Host.Outcome State Fault Refusal :=
  .next (s.implied 7 fun t => ({ t with pc := t.pc + 1 }).enterInterrupt true 0xFFFE)

/-- RTI (R225, R250): status, then `pc` low and high; no `+ 1`. -/
def execRti (s : State) : Host.Outcome State Fault Refusal :=
  .next (s.implied 6 fun t => t.returnFromInterrupt)

/-- A trap slot (R226): nothing, exactly as NOP, at its own cost; six slots signal an extra cycle, which
the Implied mode never grants (30_encoding.md R87). -/
def execTrap (opcode : Byte) (s : State) : Host.Outcome State Fault Refusal :=
  let r := s.address (trapCycles s.platform opcode) .imp
  .next (r.1.penalty (opSignal opcode && r.2))

end Sys2Proof.Machine
end

