-- ==== Sys2Proof/Machine/Transfer.lean ====
section
/-! DEFINITION. Loads, stores and register transfers (42_load_store_transfer.md R140 to R152). -/

namespace Sys2Proof.Machine

/-- LDA (R141): `A <- Operand(); SetZN(A)`. -/
def execLda (m : Mode) (s : State) : Host.Outcome State Fault Refusal :=
  .next (s.reading (readCycles m) true m fun t v => ({ t with a := v }).setZN v)

/-- LDX (R142): `X <- Operand(); SetZN(X)`. -/
def execLdx (m : Mode) (s : State) : Host.Outcome State Fault Refusal :=
  .next (s.reading (readCycles m) true m fun t v => ({ t with x := v }).setZN v)

/-- LDY (R143): `Y <- Operand(); SetZN(Y)`. -/
def execLdy (m : Mode) (s : State) : Host.Outcome State Fault Refusal :=
  .next (s.reading (readCycles m) true m fun t v => ({ t with y := v }).setZN v)

/-- STA (R144): `MemWrite(addr_abs, 1, A)`; no flag. -/
def execSta (m : Mode) (s : State) : Host.Outcome State Fault Refusal :=
  .next (s.storing m s.a)

/-- STX (R145): `MemWrite(addr_abs, 1, X)`; no flag. -/
def execStx (m : Mode) (s : State) : Host.Outcome State Fault Refusal :=
  .next (s.storing m s.x)

/-- STY (R146): `MemWrite(addr_abs, 1, Y)`; no flag. -/
def execSty (m : Mode) (s : State) : Host.Outcome State Fault Refusal :=
  .next (s.storing m s.y)

/-- TAX (R147): `X <- A; SetZN(X)`. -/
def execTax (s : State) : Host.Outcome State Fault Refusal :=
  .next (s.implied 2 fun t => ({ t with x := t.a }).setZN t.a)

/-- TAY (R148): `Y <- A; SetZN(Y)`. -/
def execTay (s : State) : Host.Outcome State Fault Refusal :=
  .next (s.implied 2 fun t => ({ t with y := t.a }).setZN t.a)

/-- TSX (R149): `X <- SP; SetZN(X)`. -/
def execTsx (s : State) : Host.Outcome State Fault Refusal :=
  .next (s.implied 2 fun t => ({ t with x := t.sp }).setZN t.sp)

/-- TXA (R150): `A <- X; SetZN(A)`. -/
def execTxa (s : State) : Host.Outcome State Fault Refusal :=
  .next (s.implied 2 fun t => ({ t with a := t.x }).setZN t.x)

/-- TXS (R151): `SP <- X`; the only transfer that leaves the flags alone. -/
def execTxs (s : State) : Host.Outcome State Fault Refusal :=
  .next (s.implied 2 fun t => { t with sp := t.x })

/-- TYA (R152): `A <- Y; SetZN(A)`. -/
def execTya (s : State) : Host.Outcome State Fault Refusal :=
  .next (s.implied 2 fun t => ({ t with a := t.y }).setZN t.y)

end Sys2Proof.Machine
end

