-- ==== Sys2Proof/Machine/Tick.lean ====
section
/-! DEFINITION. The `Tick` event and the host's events (40_step_and_dispatch.md R100, R101,
60_exceptions.md R241, R247, 70_reset_and_hazards.md R271), and the placing of a program's bytes. -/

namespace Sys2Proof.Machine

/-- `cycles <- cycles - 1; total_cycles <- total_cycles + 1`, the end of every tick (R100). -/
def State.countTick (s : State) : State :=
  { s with cycles := s.cycles - 1, totalCycles := s.totalCycles + 1 }

/-- The same at the end of a step, which may in principle have stopped. -/
def countOutcome : Host.Outcome State Fault Refusal → Host.Outcome State Fault Refusal
  | .next t => .next t.countTick
  | .fault r => .fault r
  | .refused r => .refused r

/-- The fetch, decode, execute step (R101). -/
def State.runInstr (s : State) : Host.Outcome State Fault Refusal :=
  exec s.fetchInstr.1 s.fetchInstr.2

/-- The `Tick` event (R100): a whole instruction when the countdown is zero, then the countdown. -/
def State.tick (s : State) : Host.Outcome State Fault Refusal :=
  if s.cycles = 0 then countOutcome s.runInstr else .next s.countTick

/-- One event. Before the first `Reset` every other event is refused (R271). -/
def event (e : Event) (s : State) : Host.Outcome State Fault Refusal :=
  match e, s.hasReset with
  | .reset, _ => .next s.resetEvent
  | .tick, true => s.tick
  | .irq, true => .next s.irq
  | .nmi, true => .next s.nmi
  | .tick, false => .refused .eventBeforeReset
  | .irq, false => .refused .eventBeforeReset
  | .nmi, false => .refused .eventBeforeReset

/-- The host's next event, and the state with that call no longer to come; past the end of its calls
the host ticks (log 4). -/
def State.nextEvent (s : State) : Event × State :=
  match s.hostCalls with
  | [] => (.tick, s)
  | e :: rest => (e, { s with hostCalls := rest })

/-- Make an address plain memory, by a registration of its own before all others, unless it is plain
memory already. -/
def withPlain (p : Platform) (a : Word) : Platform :=
  if plainAt p a then p else { p with devices := ⟨a, a, .ram⟩ :: p.devices }

/-- Put a byte into plain memory from outside the machine: no bus transaction. -/
def State.placeByte (s : State) (a : Word) (v : Byte) : State :=
  { s with mem := s.mem.write a.toNat v, platform := withPlain s.platform a }

/-- Put bytes at an address and the ones after it, modulo 65536. -/
def State.placeBytes (s : State) (a : Word) : List Byte → State
  | [] => s
  | v :: rest => (s.placeByte a v).placeBytes (a + 1) rest

end Sys2Proof.Machine
end

