-- ==== Sys2Proof/Machine/Step.lean ====
section
/-! DEFINITION. One step of the machine is one host event (00_scope.md R12, log 4), and the placing of
an instruction where the next step fetches it (log 11). -/

namespace Sys2Proof.Machine

/-- One step: the host's next event, a `Tick` when it has no other call to make. -/
def step (s : State) : Host.Outcome State Fault Refusal :=
  event s.nextEvent.1 s.nextEvent.2

/-- The state whose very next step fetches and runs the instruction of a table word: its bytes at
`pc`, nothing left of the countdown, the core past its first `Reset`, and a `Tick` before any call the
host has still to make (log 11). -/
def State.withFetchWord (s : State) (nbits w : Nat) : State :=
  { s.placeBytes s.pc (tableBytes nbits w) with
    cycles := 0
    hasReset := true
    hostCalls := if s.hostCalls = [] then [] else .tick :: s.hostCalls }

end Sys2Proof.Machine
end

