-- ==== Sys2Proof/Safety.lean ====
section
/-! DEFINITION. The terms claims are stated in: the machine's invariant, what stays the same, and
the replay of a bus trace over memory. -/

namespace Sys2Proof.Machine

/-- The invariant of 95_test_vectors.md Part 4: after a `Reset`, `P[5] = 1`, `P[4] = 0` and the
countdown is at most 8 (10_state.md R31, R32, R37); memory is in canonical form; UNDOC_CYCLES is in
its range (00_scope.md R5). -/
structure Inv (s : State) : Prop where
  memory : s.mem.wf = true
  platform : s.platform.wf = true
  unused : s.hasReset = true → s.flag .u = true
  noBreak : s.hasReset = true → s.flag .b = false
  countdown : s.hasReset = true → s.cycles ≤ 8

/-- `exec` runs the instruction to a next state, and that state has `post`. -/
def Completes (i : Instr) (s : State) (post : State → Prop) : Prop := ∃ t, exec i s = .next t ∧ post t

/-- Every byte of memory reads as before. -/
def MemoryKept (s t : State) : Prop := ∀ a : Word, t.mem.byteAt a.toNat = s.mem.byteAt a.toNat

/-- The listed bytes were written to the listed addresses, all different: plain memory holds them,
anything else drops them (20_memory.md R63), and every other byte of memory reads as before. -/
def Stored (writes : List (Word × Byte)) (s t : State) : Prop :=
  (∀ w ∈ writes, t.mem.byteAt w.1.toNat =
    if ramAt s.platform w.1 then w.2 else s.mem.byteAt w.1.toNat) ∧
  ∀ a : Word, a ∉ writes.map Prod.fst → t.mem.byteAt a.toNat = s.mem.byteAt a.toNat

/-- Every flag outside the listed ones is as before. -/
def FlagsKeptOutside (written : List Flag) (s t : State) : Prop :=
  ∀ f : Flag, f ∉ written → t.flag f = s.flag f

/-- What no instruction touches (40_step_and_dispatch.md R100, 20_memory.md R52): the tick counter, the
current opcode, the host's calls, the first-reset record, the platform. -/
def SurroundingsKept (s t : State) : Prop :=
  t.totalCycles = s.totalCycles ∧ t.opcode = s.opcode ∧ t.hostCalls = s.hostCalls ∧
    t.hasReset = s.hasReset ∧ t.platform = s.platform

/-- Z and N say of a byte what 40_step_and_dispatch.md R107 says. -/
def ZNOf (v : Byte) (t : State) : Prop :=
  t.flag .z = decide (v.toNat = 0) ∧ t.flag .n = decide (128 ≤ v.toNat)

/-- The transient values after an Implied instruction that reads no operand: the accumulator is staged
(41_addressing_modes.md R121). -/
def ImpliedTransients (s t : State) : Prop :=
  t.fetched = s.a ∧ t.temp = s.temp ∧ t.addrAbs = s.addrAbs ∧ t.addrRel = s.addrRel

/-- The transient values after an instruction that only resolves its address. -/
def AddressTransients (m : Mode) (s t : State) : Prop :=
  t.fetched = s.fetched ∧ t.temp = s.temp ∧ t.addrAbs = (resolve m s).1.addrAbs ∧
    t.addrRel = (resolve m s).1.addrRel

/-- The byte `Operand()` returns after the mode routine (40_step_and_dispatch.md R105). -/
def operandByte (m : Mode) (s : State) : Byte := (operand m (resolve m s).1).1

/-- The bus trace once the operand is read. -/
def operandBus (m : Mode) (s : State) : List BusOp := (operand m (resolve m s).1).2.bus

/-- The address the mode routine resolves. -/
def operandAddr (m : Mode) (s : State) : Word := (resolve m s).1.addrAbs

/-- The page-crossing signal of the mode routine, as a number of cycles. -/
def crossing (m : Mode) (s : State) : Nat := (resolve m s).2.toNat

/-- What an instruction that reads its operand and stores nothing leaves: the transients of its mode
and of `Operand()` (`temp` apart), the operand's reads and no other transaction, `SP`, `pc`, memory
and the surroundings as before. -/
def OperandOnly (m : Mode) (s t : State) : Prop :=
  t.fetched = operandByte m s ∧ t.addrAbs = operandAddr m s ∧ t.addrRel = (resolve m s).1.addrRel ∧
    t.bus = operandBus m s ∧ t.sp = s.sp ∧ t.pc = s.pc ∧ MemoryKept s t ∧ SurroundingsKept s t

/-- The reads of a fetch of these bytes at an address, newest first. -/
def fetchTrace : Word → List Byte → List BusOp
  | _, [] => []
  | a, v :: rest => fetchTrace (a + 1) rest ++ [.read a v]

/-- The state in which a fetched instruction runs: `pc` past its bytes, its opcode recorded, the fetch
in the bus trace (40_step_and_dispatch.md R101, R111). -/
def afterFetch (bytes : List Byte) (s : State) : State :=
  { s with
    pc := s.pc + BitVec.ofNat 16 bytes.length
    opcode := bytes.headD 0
    bus := fetchTrace s.pc bytes ++ s.bus }

/-- Plain memory holds these bytes from an address on, modulo 65536. -/
def HoldsAt (s : State) : Word → List Byte → Prop
  | _, [] => True
  | a, v :: rest => plainAt s.platform a = true ∧ s.mem.byteAt a.toNat = v ∧ HoldsAt s (a + 1) rest

/-- One past transaction's effect on memory: a write that reached plain memory stores
(20_memory.md R63). -/
def replayOp (p : Platform) (op : BusOp) (m : Memory) : Memory :=
  match op with
  | .read _ _ => m
  | .write a v => if ramAt p a then m.write a.toNat v else m

/-- The memory that a list of transactions, newest first, leaves. -/
def replay (p : Platform) (ops : List BusOp) (m : Memory) : Memory := ops.foldr (replayOp p) m

end Sys2Proof.Machine
end

