-- ==== Sys2Proof/Certificates/Slice0/Obligations.lean ====
section
/-! DEFINITION. The statements for the provers. Each docstring names the rule of spec/ it formalises;
the terms are those of Sys2Proof/Safety.lean. -/

open Sys2Proof Sys2Proof.Machine

/-! ### Encoding -/

/-- A word of each family, written out from 30_encoding.md R81 and R84 to R86, decodes to the
instruction it stands for. -/
def Obligations.SampleWordsDecode : Prop :=
  decode [0xA9, 0x7F] = .ok (.lda (.imm 0x7F), []) ∧
  decode [0x96, 0x10] = .ok (.stx (.zpy 0x10), []) ∧
  decode [0x7D, 0xFF, 0x12] = .ok (.adc (.abx 0x12FF), []) ∧
  decode [0x6A] = .ok (.ror .imp, []) ∧
  decode [0x6C, 0xFF, 0x30] = .ok (.jmp (.ind 0x30FF), []) ∧
  decode [0xD0, 0xFC] = .ok (.bne 0xFC, []) ∧
  decode [0x00, 0x55] = .ok (.brk, [0x55]) ∧
  decode [0xEB, 0x01] = .ok (.sbcEb 0x01, []) ∧
  decode [0x1C, 0xFF, 0x12] = .ok (.trap 0x1C, [0xFF, 0x12])

/-- Decoding the encoding of a well-formed instruction gives it back, with whatever follows left over
(30_encoding.md R80 to R86). -/
def Obligations.DecodeAfterEncode : Prop :=
  ∀ (i : Instr) (rest : List Byte), i.wf = true → decode (encode i ++ rest) = .ok (i, rest)

/-- Whatever decodes is well formed, and its encoding is the bytes that were consumed: each byte
sequence has one meaning (30_encoding.md R80 to R86). -/
def Obligations.EncodeAfterDecode : Prop :=
  ∀ (bytes rest : List Byte) (i : Instr),
    decode bytes = .ok (i, rest) → i.wf = true ∧ encode i ++ rest = bytes

/-- Every byte is a valid first byte: decoding fails only for want of bytes, and an instruction's length
is one more than the operand bytes of its opcode's mode (30_encoding.md R82). -/
def Obligations.EveryOpcodeDecodes : Prop :=
  ∀ (opcode : Byte) (rest : List Byte),
    ((entry opcode).format.operandBytes ≤ rest.length ↔
      ∃ i tail, decode (opcode :: rest) = .ok (i, tail) ∧
        (encode i).length = 1 + (entry opcode).format.operandBytes)

/-! ### The step and the tick -/

/-- The instruction fetch reads exactly the instruction's bytes, one read each at rising addresses,
whatever devices answer, and leaves `pc` past them (40_step_and_dispatch.md R101, R111,
30_encoding.md R80). That the immediate byte is read here and not at (4) of R111 is the model's placing
(log 7, DEDUCED); the order on the bus is R111's. -/
def Obligations.FetchReadsTheInstruction : Prop :=
  ∀ s : State, s.fetchInstr.1.wf = true ∧ s.fetchInstr.2 = afterFetch (encode s.fetchInstr.1) s

/-- When the countdown is zero, the next event is a `Tick`, and plain memory holds a well-formed
instruction's bytes at `pc`, the step is `exec` of that instruction in the state after its fetch,
followed by the tick's count (40_step_and_dispatch.md R100, R101). That the fetch takes all the
instruction's bytes, the immediate byte among them, is the model's placing (log 7). -/
def Obligations.StepRunsTheDecodedInstruction : Prop :=
  ∀ (i : Instr) (s : State), i.wf = true → s.hasReset = true → s.cycles = 0 →
    s.nextEvent.1 = .tick → HoldsAt s s.pc (encode i) →
    step s = countOutcome (exec i (afterFetch (encode i) s.nextEvent.2))

/-- A `Tick` (40_step_and_dispatch.md R100): with the countdown at zero one whole fetch, decode and
execute step, then the count; otherwise it only counts: one off the countdown, one onto the total, no
other change, no bus transaction. -/
def Obligations.TickStepsAtZeroElseCounts : Prop :=
  ∀ s : State, s.hasReset = true → s.nextEvent.1 = .tick →
    (s.cycles = 0 →
      ∃ t, exec s.nextEvent.2.fetchInstr.1 s.nextEvent.2.fetchInstr.2 = .next t ∧
        step s = .next { t with cycles := t.cycles - 1, totalCycles := t.totalCycles + 1 }) ∧
    (s.cycles ≠ 0 →
      step s = .next { s.nextEvent.2 with cycles := s.cycles - 1, totalCycles := s.totalCycles + 1 })

/-- As long as the countdown lasts, a run of ticks only counts (40_step_and_dispatch.md R100, R109). -/
def Obligations.DelayRunOnlyCounts : Prop :=
  ∀ (n : Nat) (s : State), s.hasReset = true → s.hostCalls = [] → n ≤ s.cycles →
    Host.Core.run Sys2Proof.core n s =
      .next { s with cycles := s.cycles - n, totalCycles := s.totalCycles + n }

/-- The first instruction after a `Reset` runs at the ninth tick, at the reset vector's address
(70_reset_and_hazards.md R272). -/
def Obligations.FirstInstructionAtNinthTick : Prop :=
  ∀ s : State, s.hostCalls = [] →
    Host.Core.run Sys2Proof.core 9 s.resetEvent =
      countOutcome
        (State.runInstr { s.resetEvent with cycles := 0, totalCycles := s.totalCycles + 8 })

/-- The cycles an instruction leaves owing, for every opcode: the table's base cost plus the AND of the
two signals; for a taken branch one more, and another across a page; for a trap its UNDOC_CYCLES cost
(40_step_and_dispatch.md R104, R109, 45_branch_jump.md R191, 30_encoding.md R85, R87, R88). That a branch's
crossing is judged from the post-fetch `pc` is the spec's own decision D22, a choice (log 10). -/
def Obligations.CostsFollowTheTable : Prop :=
  ∀ (opcode b1 b2 : Byte) (s : State),
    let i := ofBytes opcode b1 b2
    Completes i s fun t =>
      if i.op = .trap then t.cycles = trapCycles s.platform opcode
      else if i.mode.format = .rel then
        t.cycles = (entry opcode).baseCycles ∧ t.pc = s.pc ∨
        t.cycles = (entry opcode).baseCycles + 1 + (if hi t.pc = hi s.pc then 0 else 1) ∧
          t.pc = s.pc + sext16 b1
      else t.cycles = (entry opcode).baseCycles + (opSignal opcode && (resolve i.mode s).2).toNat

/-- After the first `Reset` every step has a next state: the core cannot fault, refuse or halt
(40_step_and_dispatch.md R110, 60_exceptions.md R240, R258). -/
def Obligations.EveryStepHasANextState : Prop :=
  ∀ s : State, s.hasReset = true → ∃ t, step s = .next t

/-- Before the first `Reset`, `Tick`, `Irq` and `Nmi` are refused (70_reset_and_hazards.md R271). -/
def Obligations.EventsBeforeResetRefused : Prop :=
  ∀ s : State, s.hasReset = false → s.nextEvent.1 ≠ .reset → step s = .refused .eventBeforeReset

/-- A step takes the host's next call and no other; `total_cycles` counts the ticks and nothing else;
the platform never changes; the first-reset record is never lost (10_state.md R38,
20_memory.md R52). -/
def Obligations.StepKeepsTheBooks : Prop :=
  ∀ s t : State, step s = .next t →
    t.hostCalls = s.hostCalls.tail ∧ t.platform = s.platform ∧ t.hasReset = true ∧
    t.totalCycles = s.totalCycles + (if s.nextEvent.1 = .tick then 1 else 0)

/-! ### Events -/

/-- `Reset` (70_reset_and_hazards.md R270): every register, the countdown and the transients at their
reset values, `pc` from the vector read low byte first, two bus reads and no write, everything else as
before. -/
def Obligations.ResetEventSetsTheState : Prop :=
  ∀ s : State,
    let l := s.readValue 0xFFFC
    let h := ({ s with bus := .read 0xFFFC l :: s.bus } : State).readValue 0xFFFD
    ∃ t, event .reset s = .next t ∧
      t.a = 0x00 ∧ t.x = 0x00 ∧ t.y = 0x00 ∧ t.sp = 0xFD ∧ t.p = 0x20 ∧ t.pc = join h l ∧
      t.opcode = 0x00 ∧ t.fetched = 0x00 ∧ t.temp = 0x0000 ∧ t.addrAbs = 0x0000 ∧
      t.addrRel = 0x0000 ∧ t.cycles = 8 ∧ t.totalCycles = s.totalCycles ∧ t.hasReset = true ∧
      t.bus = [.read 0xFFFD h, .read 0xFFFC l] ++ s.bus ∧ MemoryKept s t ∧
      t.hostCalls = s.hostCalls ∧ t.platform = s.platform

/-- `State.reset` is what `Reset` makes of a core that has just come up on the test platform with
nothing in memory, whatever its registers held (10_state.md R40; the platform and the empty memory are
the model's choice, log 1 and log 2). -/
def Obligations.ResetStateIsTheResetEvents : Prop :=
  ∀ s : State, s.mem = [] → s.bus = [] → s.hostCalls = [] → s.totalCycles = 0 →
    s.platform = Config.testPlatform → s.resetEvent = State.reset

/-- What `Irq` and `Nmi` do when they are taken (60_exceptions.md R242, R243, R248): the three pushes,
then Interrupt-disable, then `pc` from the vector, then the countdown; nothing else. -/
def EntersInterrupt (vector : Word) (countdown : Nat) (s t : State) : Prop :=
  let status := (s.p &&& 0xCF) ||| 0x20
  let pushes : List BusOp :=
    [.write (stackAddr (s.sp - 2)) status, .write (stackAddr (s.sp - 1)) (lo s.pc),
      .write (stackAddr s.sp) (hi s.pc)]
  let pushed : State := { s with mem := replay s.platform pushes s.mem, bus := pushes ++ s.bus }
  let l := pushed.readValue vector
  let h := ({ pushed with bus := .read vector l :: pushed.bus } : State).readValue (vector + 1)
  t.sp = s.sp - 3 ∧ t.flag .i = true ∧ FlagsKeptOutside [.i] s t ∧ t.pc = join h l ∧
    t.cycles = countdown ∧ t.a = s.a ∧ t.x = s.x ∧ t.y = s.y ∧
    t.bus = [.read (vector + 1) h, .read vector l] ++ pushes ++ s.bus ∧
    Stored [(stackAddr s.sp, hi s.pc), (stackAddr (s.sp - 1), lo s.pc),
      (stackAddr (s.sp - 2), status)] s t ∧
    t.fetched = s.fetched ∧ t.temp = s.temp ∧ t.addrAbs = s.addrAbs ∧ t.addrRel = s.addrRel ∧
    SurroundingsKept s t

/-- `Irq` (60_exceptions.md R242, R249): taken when Interrupt-disable is clear, countdown 7 whatever
was owed; otherwise no state change at all. -/
def Obligations.IrqEntersUnlessMasked : Prop :=
  ∀ s : State, s.hasReset = true →
    (s.flag .i = false → ∃ t, event .irq s = .next t ∧ EntersInterrupt 0xFFFE 7 s t) ∧
    (s.flag .i = true → event .irq s = .next s)

/-- `Nmi` (60_exceptions.md R243, R249): always taken, through its own vector, countdown 8. -/
def Obligations.NmiAlwaysEnters : Prop :=
  ∀ s : State, s.hasReset = true → ∃ t, event .nmi s = .next t ∧ EntersInterrupt 0xFFFA 8 s t

/-- An `Irq` right after a taken `Irq` or an `Nmi` is dropped without a trace (60_exceptions.md R247,
R251, R252). -/
def Obligations.IrqAfterEntryIsDropped : Prop :=
  ∀ (e : Event) (s t : State), s.hasReset = true → e = .nmi ∨ (e = .irq ∧ s.flag .i = false) →
    event e s = .next t → event .irq t = .next t

/-- The stack is plain memory where an interrupt entry pushes. -/
def StackRam (s : State) (n : Nat) : Prop :=
  ∀ k < n, ramAt s.platform (stackAddr (s.sp - BitVec.ofNat 8 k)) = true

/-- An interrupt entry followed by RTI restores `pc`, `P` and `SP`, and no other register is touched: for
`Nmi`, for an unmasked `Irq`, and for BRK, which returns past its padding byte
(60_exceptions.md R248, R250, 46_stack_flags_system.md R224, R225). -/
def Obligations.ReturnUndoesEntry : Prop :=
  ∀ s t : State, s.hasReset = true → s.flag .u = true → StackRam s 3 →
    (event .nmi s = .next t ∨ (event .irq s = .next t ∧ s.flag .i = false) →
      Completes .rti t fun u => u.pc = s.pc ∧ u.p = s.p ∧ u.sp = s.sp ∧ u.a = s.a ∧ u.x = s.x ∧ u.y = s.y) ∧
    (exec .brk s = .next t →
      Completes .rti t fun u =>
        u.pc = s.pc + 1 ∧ u.p = s.p ∧ u.sp = s.sp ∧ u.a = s.a ∧ u.x = s.x ∧ u.y = s.y)

/-! ### The bus -/

/-- The first registration that covers an address, both ends inclusive, handles it
(20_memory.md R52). -/
def Obligations.FirstRegistrationHandles : Prop :=
  ∀ (p : Platform) (before after : List Device) (d : Device) (a : Word),
    p.devices = before ++ d :: after → d.first.toNat ≤ a.toNat → a.toNat ≤ d.last.toNat →
    (∀ e ∈ before, a.toNat < e.first.toNat ∨ e.last.toNat < a.toNat) → deviceAt p a = some d

/-- An address no device claims reads 0x00, so an opcode fetched there is BRK, and a write there changes
nothing but the bus trace (20_memory.md R53). -/
def Obligations.UnmappedReadsZeroDropsWrites : Prop :=
  ∀ (s : State) (a : Word) (v : Byte),
    (∀ d ∈ s.platform.devices, a.toNat < d.first.toNat ∨ d.last.toNat < a.toNat) →
    s.readValue a = 0x00 ∧ s.memWrite a v = { s with bus := .write a v :: s.bus } ∧
    (s.pc = a → s.fetchInstr.1 = .brk)

/-- Plain memory returns the last byte written and keeps every other; a write to read-only memory is a
no-op (20_memory.md R63). -/
def Obligations.PlainMemoryReturnsLastWrite : Prop :=
  ∀ (s : State) (a b : Word) (v : Byte),
    (ramAt s.platform a = true → (s.memWrite a v).readValue a = v) ∧
    (plainAt s.platform b = true → a ≠ b ∨ ramAt s.platform a = false →
      (s.memWrite a v).readValue b = s.readValue b)

/-- Memory changes only by the writes in the bus trace, in their order: whatever the event, the memory
after a step is the memory before it with the new transactions replayed
(20_memory.md R64, R65, R67). -/
def Obligations.MemoryIsReplayOfTheTrace : Prop :=
  ∀ s t : State, step s = .next t →
    ∃ ops, t.bus = ops ++ s.bus ∧ t.mem = replay s.platform ops s.mem

/-- Every read in the trace of a step returned what the device at its address holds at that moment: the
last byte written for plain memory, 0x00 for an unmapped address (20_memory.md R53, R63, R65). -/
def Obligations.ReadsReturnTheLastWrite : Prop :=
  ∀ (s t : State) (later earlier : List BusOp) (a : Word) (v : Byte), step s = .next t →
    t.bus = later ++ .read a v :: earlier ++ s.bus →
    (plainAt s.platform a = true → v = (replay s.platform earlier s.mem).byteAt a.toNat) ∧
    (deviceAt s.platform a = none → v = 0x00)

/-- Every write of an instruction that pushes lands in the stack page, and `Push` then `Pop` gives the
byte back with `SP` restored (20_memory.md R62, 10_state.md R24). -/
def Obligations.PushThenPop : Prop :=
  ∀ (s : State) (v : Byte),
    0x0100 ≤ (stackAddr s.sp).toNat ∧ (stackAddr s.sp).toNat ≤ 0x01FF ∧
    (s.push v).sp = s.sp - 1 ∧ Stored [(stackAddr s.sp, v)] s (s.push v) ∧
    (ramAt s.platform (stackAddr s.sp) = true →
      (s.push v).pop.1 = v ∧ (s.push v).pop.2.sp = s.sp)

/-! ### Addressing modes -/

/-- A mode routine changes only the transients and the bus trace, and its transactions are reads
(41_addressing_modes.md R120; `pc` is already past the operand bytes, log 7). -/
def Obligations.ModesTouchOnlyTransients : Prop :=
  ∀ (m : Mode) (s : State),
    let t := (resolve m s).1
    (∃ reads : List (Word × Byte), t.bus = reads.map (fun r => BusOp.read r.1 r.2) ++ s.bus) ∧
    ∃ bus fetched addrAbs addrRel,
      t = { s with bus := bus, fetched := fetched, addrAbs := addrAbs, addrRel := addrRel }

/-- The zero-page modes stay in the zero page: the index wraps, and nothing is signalled
(41_addressing_modes.md R123, R124, R125). -/
def Obligations.ZeroPageModesWrap : Prop :=
  ∀ (b : Byte) (s : State),
    (operandAddr (.zp0 b) s).toNat = b.toNat ∧
    (operandAddr (.zpx b) s).toNat = (b.toNat + s.x.toNat) % 256 ∧
    (operandAddr (.zpy b) s).toNat = (b.toNat + s.y.toNat) % 256 ∧
    crossing (.zp0 b) s = 0 ∧ crossing (.zpx b) s = 0 ∧ crossing (.zpy b) s = 0

/-- The absolute modes: the address wraps modulo 65536, and the indexed forms signal exactly when the
sum is in another page (41_addressing_modes.md R127, R128, R129, 00_scope.md R10). -/
def Obligations.AbsoluteModesIndex : Prop :=
  ∀ (w : Word) (s : State),
    operandAddr (.abs w) s = w ∧ crossing (.abs w) s = 0 ∧
    (operandAddr (.abx w) s).toNat = (w.toNat + s.x.toNat) % 65536 ∧
    crossing (.abx w) s = (if (w.toNat + s.x.toNat) % 65536 / 256 = w.toNat / 256 then 0 else 1) ∧
    (operandAddr (.aby w) s).toNat = (w.toNat + s.y.toNat) % 65536 ∧
    crossing (.aby w) s = (if (w.toNat + s.y.toNat) % 65536 / 256 = w.toNat / 256 then 0 else 1)

/-- The two reads of a pointer, low byte first, and the address they form. -/
def PointerRead (low high target : Word) (s t : State) : Prop :=
  ∃ l h : Byte, target.toNat = h.toNat * 256 + l.toNat ∧
    t.bus = [.read high h, .read low l] ++ s.bus ∧ l = s.readValue low ∧
    (plainAt s.platform high = true → h = s.readValue high)

/-- The indirect mode reads its target's high byte in the pointer's own page: the page-wrap quirk
(41_addressing_modes.md R130). -/
def Obligations.IndirectWrapsInThePage : Prop :=
  ∀ (w : Word) (s : State),
    crossing (.ind w) s = 0 ∧
    ∃ high : Word, high.toNat = w.toNat / 256 * 256 + (w.toNat + 1) % 256 ∧
      PointerRead w high (operandAddr (.ind w) s) s (resolve (.ind w) s).1

/-- The zero-page pointers: both bytes in the zero page; the X form adds X to the pointer, the Y form
adds Y to the target and signals a page crossing (41_addressing_modes.md R131, R132). -/
def Obligations.ZeroPagePointersWrap : Prop :=
  ∀ (b : Byte) (s : State),
    (crossing (.izx b) s = 0 ∧
      ∃ low high : Word, low.toNat = (b.toNat + s.x.toNat) % 256 ∧
        high.toNat = (b.toNat + s.x.toNat + 1) % 256 ∧
        PointerRead low high (operandAddr (.izx b) s) s (resolve (.izx b) s).1) ∧
    ∃ low high base : Word, low.toNat = b.toNat ∧ high.toNat = (b.toNat + 1) % 256 ∧
      PointerRead low high base s (resolve (.izy b) s).1 ∧
      (operandAddr (.izy b) s).toNat = (base.toNat + s.y.toNat) % 65536 ∧
      crossing (.izy b) s =
        (if (base.toNat + s.y.toNat) % 65536 / 256 = base.toNat / 256 then 0 else 1)

/-- `Operand()` reads the bus once at `addr_abs`, except for the accumulator and the immediate byte,
which is the byte just before the post-fetch `pc`, already read by the fetch: the model's placing, log 7
(40_step_and_dispatch.md R105, 41_addressing_modes.md R121, R122). -/
def Obligations.OperandReadsOnce : Prop :=
  ∀ (m : Mode) (s : State),
    (m = .imp → operandByte m s = s.a ∧ operandBus m s = s.bus) ∧
    (∀ b, m = .imm b →
      operandByte m s = b ∧ operandBus m s = s.bus ∧ operandAddr m s + 1 = s.pc) ∧
    (m.format ≠ .imp → m.format ≠ .imm →
      operandByte m s = (resolve m s).1.readValue (operandAddr m s) ∧
      operandBus m s = .read (operandAddr m s) (operandByte m s) :: (resolve m s).1.bus)

/-! ### Loads, stores, transfers -/

/-- LDA, LDX, LDY (42_load_store_transfer.md R140 to R143): the register takes the operand byte, Z and N
follow it, nothing else changes. -/
def Obligations.LoadsTakeTheOperand : Prop :=
  ∀ (m : Mode) (s : State),
    let post := fun t : State => ZNOf (operandByte m s) t ∧ FlagsKeptOutside [.z, .n] s t ∧
      t.cycles = readCycles m + crossing m s ∧ t.temp = s.temp ∧ OperandOnly m s t
    (Completes (.lda m) s fun t => t.a = operandByte m s ∧ t.x = s.x ∧ t.y = s.y ∧ post t) ∧
    (Completes (.ldx m) s fun t => t.x = operandByte m s ∧ t.a = s.a ∧ t.y = s.y ∧ post t) ∧
    (Completes (.ldy m) s fun t => t.y = operandByte m s ∧ t.a = s.a ∧ t.x = s.x ∧ post t)

/-- STA, STX, STY (42_load_store_transfer.md R140, R144 to R146): one write of the register at the
resolved address, no read of it, no flag, no penalty; every form but the accumulator, which a store
does not have. -/
def Obligations.StoresWriteTheRegister : Prop :=
  ∀ (m : Mode) (s : State), m.format ≠ .imp →
    let post := fun (v : Byte) (t : State) =>
      t.bus = .write (operandAddr m s) v :: (resolve m s).1.bus ∧
      Stored [(operandAddr m s, v)] s t ∧ t.p = s.p ∧ t.a = s.a ∧ t.x = s.x ∧ t.y = s.y ∧
      t.sp = s.sp ∧ t.pc = s.pc ∧ t.cycles = storeCycles m ∧ AddressTransients m s t ∧
      SurroundingsKept s t
    Completes (.sta m) s (post s.a) ∧ Completes (.stx m) s (post s.x) ∧ Completes (.sty m) s (post s.y)

/-- What every one-byte, two-cycle register instruction leaves alone. -/
def RegisterOnly (s t : State) : Prop :=
  t.cycles = 2 ∧ t.pc = s.pc ∧ t.bus = s.bus ∧ MemoryKept s t ∧ ImpliedTransients s t ∧
    SurroundingsKept s t

/-- TAX, TAY, TSX, TXA, TYA copy and set Z and N; TXS copies and sets no flag
(42_load_store_transfer.md R147 to R152). -/
def Obligations.TransfersCopy : Prop :=
  ∀ s : State,
    let zn := fun (v : Byte) (t : State) => ZNOf v t ∧ FlagsKeptOutside [.z, .n] s t ∧ RegisterOnly s t
    (Completes .tax s fun t => t.x = s.a ∧ t.a = s.a ∧ t.y = s.y ∧ t.sp = s.sp ∧ zn s.a t) ∧
    (Completes .tay s fun t => t.y = s.a ∧ t.a = s.a ∧ t.x = s.x ∧ t.sp = s.sp ∧ zn s.a t) ∧
    (Completes .tsx s fun t => t.x = s.sp ∧ t.a = s.a ∧ t.y = s.y ∧ t.sp = s.sp ∧ zn s.sp t) ∧
    (Completes .txa s fun t => t.a = s.x ∧ t.x = s.x ∧ t.y = s.y ∧ t.sp = s.sp ∧ zn s.x t) ∧
    (Completes .tya s fun t => t.a = s.y ∧ t.x = s.x ∧ t.y = s.y ∧ t.sp = s.sp ∧ zn s.y t) ∧
    (Completes .txs s fun t =>
      t.sp = s.x ∧ t.a = s.a ∧ t.x = s.x ∧ t.y = s.y ∧ t.p = s.p ∧ RegisterOnly s t)

/-! ### Arithmetic and logic -/

/-- ADC (43_arithmetic_logic.md R161, R176): the sum with carry modulo 256, C the unsigned overflow, V
exactly when the two's-complement sum does not fit, Z and N of the result, and `temp` the whole sum,
whatever the Decimal flag. -/
def Obligations.AdcAddsWithCarry : Prop :=
  ∀ (m : Mode) (s : State),
    let v := operandByte m s
    let sum := s.a.toNat + v.toNat + (s.flag .c).toNat
    let signed := s.a.toInt + v.toInt + ((s.flag .c).toNat : Int)
    Completes (.adc m) s fun t =>
      t.a.toNat = sum % 256 ∧ t.flag .c = decide (255 < sum) ∧
      t.flag .v = decide (signed < -128 ∨ 127 < signed) ∧ ZNOf t.a t ∧
      FlagsKeptOutside [.c, .z, .v, .n] s t ∧ t.temp.toNat = sum ∧ t.x = s.x ∧ t.y = s.y ∧
      t.cycles = readCycles m + crossing m s ∧ OperandOnly m s t

/-- SBC (43_arithmetic_logic.md R162, R176): the difference less the borrow modulo 256, C exactly when
there is no borrow, V exactly when the two's-complement difference does not fit, Z and N of the
result; and opcode 0xEB is SBC immediate (46_stack_flags_system.md R227). -/
def Obligations.SbcSubtractsWithBorrow : Prop :=
  ∀ (m : Mode) (s : State),
    let v := operandByte m s
    let borrow := 1 - (s.flag .c).toNat
    let signed := s.a.toInt - v.toInt - (borrow : Int)
    (Completes (.sbc m) s fun t =>
      (t.a.toNat : Int) = ((s.a.toNat : Int) - v.toNat - borrow) % 256 ∧
      t.flag .c = decide (v.toNat + borrow ≤ s.a.toNat) ∧
      t.flag .v = decide (signed < -128 ∨ 127 < signed) ∧ ZNOf t.a t ∧
      FlagsKeptOutside [.c, .z, .v, .n] s t ∧ (t.temp.toNat : Int) = (s.a.toNat : Int) - v.toNat - borrow + 256 ∧
      t.x = s.x ∧ t.y = s.y ∧ t.cycles = readCycles m + crossing m s ∧ OperandOnly m s t) ∧
    ∀ b, exec (.sbcEb b) s = exec (.sbc (.imm b)) s

/-- AND, ORA, EOR (43_arithmetic_logic.md R163, R164, R165). -/
def Obligations.LogicCombinesTheOperand : Prop :=
  ∀ (m : Mode) (s : State),
    let post := fun (r : Byte) (t : State) => t.a = r ∧ ZNOf r t ∧ FlagsKeptOutside [.z, .n] s t ∧
      t.x = s.x ∧ t.y = s.y ∧ t.temp = s.temp ∧ t.cycles = readCycles m + crossing m s ∧
      OperandOnly m s t
    Completes (.and m) s (post (s.a &&& operandByte m s)) ∧
    Completes (.ora m) s (post (s.a ||| operandByte m s)) ∧
    Completes (.eor m) s (post (s.a ^^^ operandByte m s))

/-- BIT (43_arithmetic_logic.md R166): Z from `A & M`, N and V the operand's bits 7 and 6, `A` unchanged,
no penalty. -/
def Obligations.BitTestsTheOperand : Prop :=
  ∀ (m : Mode) (s : State),
    Completes (.bit m) s fun t =>
      t.flag .z = decide (s.a &&& operandByte m s = 0) ∧
      t.flag .n = (operandByte m s).getLsbD 7 ∧ t.flag .v = (operandByte m s).getLsbD 6 ∧
      FlagsKeptOutside [.z, .v, .n] s t ∧ t.a = s.a ∧ t.x = s.x ∧ t.y = s.y ∧ t.temp = s.temp ∧
      t.cycles = readCycles m ∧ OperandOnly m s t

/-- CMP, CPX, CPY (43_arithmetic_logic.md R167, R168, R169): C exactly when the register is at least the
operand, Z exactly when they are equal, N bit 7 of the difference; the registers, V and the carry-in
have no part. -/
def Obligations.ComparesSetCarryZeroNegative : Prop :=
  ∀ (m : Mode) (s : State),
    let post := fun (reg : Byte) (penalty : Nat) (t : State) =>
      let v := operandByte m s
      t.flag .c = decide (v.toNat ≤ reg.toNat) ∧ t.flag .z = decide (reg = v) ∧
      t.flag .n = decide (128 ≤ (reg.toNat + 256 - v.toNat) % 256) ∧
      FlagsKeptOutside [.c, .z, .n] s t ∧ t.a = s.a ∧ t.x = s.x ∧ t.y = s.y ∧
      t.temp.toNat = (reg.toNat + 65536 - v.toNat) % 65536 ∧
      t.cycles = readCycles m + penalty ∧ OperandOnly m s t
    Completes (.cmp m) s (post s.a (crossing m s)) ∧ Completes (.cpx m) s (post s.x 0) ∧
    Completes (.cpy m) s (post s.y 0)

/-- What a read-modify-write of memory leaves: the read, then one write of the result at the same
address, and nothing else but flags (43_arithmetic_logic.md R170, 44_shift_rotate.md R180). -/
def Modified (m : Mode) (result : Byte) (s t : State) : Prop :=
  t.bus = .write (operandAddr m s) result :: operandBus m s ∧
  Stored [(operandAddr m s, result)] s t ∧ t.a = s.a ∧ t.x = s.x ∧ t.y = s.y ∧ t.sp = s.sp ∧
  t.pc = s.pc ∧ t.fetched = operandByte m s ∧ t.temp = s.temp ∧ t.addrAbs = operandAddr m s ∧
  t.addrRel = (resolve m s).1.addrRel ∧ t.cycles = modifyCycles m ∧ SurroundingsKept s t

/-- INC, DEC (43_arithmetic_logic.md R170, R171): one more or one less modulo 256, Z and N, not C or V;
one read and one write. -/
def Obligations.IncDecModifyMemory : Prop :=
  ∀ (m : Mode) (s : State),
    let up := operandByte m s + 1
    let down := operandByte m s - 1
    (up.toNat = ((operandByte m s).toNat + 1) % 256 ∧
      down.toNat = ((operandByte m s).toNat + 255) % 256) ∧
    (Completes (.inc m) s fun t => ZNOf up t ∧ FlagsKeptOutside [.z, .n] s t ∧ Modified m up s t) ∧
    (Completes (.dec m) s fun t => ZNOf down t ∧ FlagsKeptOutside [.z, .n] s t ∧ Modified m down s t)

/-- INX, INY, DEX, DEY (43_arithmetic_logic.md R172 to R175): modulo 256, Z and N, not C or V. -/
def Obligations.IndexRegistersCount : Prop :=
  ∀ s : State,
    let post := fun (v : Byte) (t : State) =>
      ZNOf v t ∧ FlagsKeptOutside [.z, .n] s t ∧ t.a = s.a ∧ t.sp = s.sp ∧ RegisterOnly s t
    (Completes .inx s fun t => t.x.toNat = (s.x.toNat + 1) % 256 ∧ t.y = s.y ∧ post t.x t) ∧
    (Completes .iny s fun t => t.y.toNat = (s.y.toNat + 1) % 256 ∧ t.x = s.x ∧ post t.y t) ∧
    (Completes .dex s fun t => t.x.toNat = (s.x.toNat + 255) % 256 ∧ t.y = s.y ∧ post t.x t) ∧
    (Completes .dey s fun t => t.y.toNat = (s.y.toNat + 255) % 256 ∧ t.x = s.x ∧ post t.y t)

/-! ### Shifts and rotates -/

/-- What a shift or rotate does: the result and the new carry of the operand and the old carry; the
accumulator form writes `A`, every other form modifies memory (44_shift_rotate.md R180). -/
def Shifts (mk : Mode → Instr) (result : Nat → Nat → Nat) (out : Nat → Prop) : Prop :=
  ∀ (m : Mode) (s : State),
    let v := operandByte m s
    Completes (mk m) s fun t =>
      (t.flag .c = true ↔ out v.toNat) ∧ FlagsKeptOutside [.c, .z, .n] s t ∧
      if m = .imp then
        t.a.toNat = result v.toNat (s.flag .c).toNat ∧ ZNOf t.a t ∧ t.x = s.x ∧ t.y = s.y ∧
        t.sp = s.sp ∧ RegisterOnly s t
      else
        ∃ r : Byte, r.toNat = result v.toNat (s.flag .c).toNat ∧ ZNOf r t ∧ Modified m r s t

/-- ASL, LSR, ROL, ROR (44_shift_rotate.md R181 to R184): twice the operand modulo 256 with bit 7 into
C, or half the operand with bit 0 into C; the rotates put the old carry in at the other end. -/
def Obligations.ShiftsAndRotatesMoveOneBit : Prop :=
  Shifts .asl (fun v _ => 2 * v % 256) (fun v => 128 ≤ v) ∧
  Shifts .lsr (fun v _ => v / 2) (fun v => v % 2 = 1) ∧
  Shifts .rol (fun v c => 2 * v % 256 + c) (fun v => 128 ≤ v) ∧
  Shifts .ror (fun v c => v / 2 + 128 * c) (fun v => v % 2 = 1)

/-- Nine accumulator ROLs restore the operand and the carry (44_shift_rotate.md R183). -/
def Obligations.NineRotatesRestore : Prop :=
  ∀ s : State,
    let again := fun o : Host.Outcome State Fault Refusal =>
      match o with
      | .next t => exec (.rol .imp) t
      | stop => stop
    ∃ t, again^[9] (.next s) = .next t ∧ t.a = s.a ∧ t.flag .c = s.flag .c

/-! ### Control flow -/

/-- What a conditional branch does (45_branch_jump.md R190, R191): not taken, two cycles and on; taken,
to the post-fetch `pc` plus the signed displacement modulo 65536, one cycle more, two across a page;
no flag, no register, no bus transaction. -/
def Branches (mk : Byte → Instr) (f : Flag) (taken : Bool) : Prop :=
  ∀ (b : Byte) (s : State),
    Completes (mk b) s fun t =>
      (s.flag f = taken →
        (t.pc.toNat : Int) = ((s.pc.toNat : Int) + b.toInt) % 65536 ∧ t.addrAbs = t.pc ∧
        t.cycles = (if t.pc.toNat / 256 = s.pc.toNat / 256 then 3 else 4)) ∧
      (s.flag f ≠ taken → t.pc = s.pc ∧ t.addrAbs = s.addrAbs ∧ t.cycles = 2) ∧
      t.a = s.a ∧ t.x = s.x ∧ t.y = s.y ∧ t.sp = s.sp ∧ t.p = s.p ∧ t.bus = s.bus ∧
      MemoryKept s t ∧ t.fetched = s.fetched ∧ t.temp = s.temp ∧ t.addrRel = sext16 b ∧
      SurroundingsKept s t

/-- The eight conditional branches (45_branch_jump.md R192 to R199): each is `Branch` of R191 on its
flag's value, which gives the target, its wrap and the cost. That a crossing is judged from the
post-fetch `pc` is the spec's own decision D22, a choice (92_eei_decisions.md; log 10). -/
def Obligations.BranchesTestTheirFlag : Prop :=
  Branches .bcc .c false ∧ Branches .bcs .c true ∧ Branches .beq .z true ∧ Branches .bne .z false ∧
  Branches .bmi .n true ∧ Branches .bpl .n false ∧ Branches .bvc .v false ∧ Branches .bvs .v true

/-- JMP (45_branch_jump.md R200): `pc` is the resolved address, which is not read; no flag. -/
def Obligations.JmpGoesToTheAddress : Prop :=
  ∀ (m : Mode) (s : State), m.format ≠ .imp →
    Completes (.jmp m) s fun t =>
      t.pc = operandAddr m s ∧ t.bus = (resolve m s).1.bus ∧ t.cycles = jumpCycles m ∧ t.a = s.a ∧
      t.x = s.x ∧ t.y = s.y ∧ t.sp = s.sp ∧ t.p = s.p ∧ MemoryKept s t ∧ AddressTransients m s t ∧
      SurroundingsKept s t

/-- JSR (45_branch_jump.md R201): pushes the address of its own last byte, high byte first, and goes to
its operand. -/
def Obligations.JsrPushesItsLastByte : Prop :=
  ∀ (w : Word) (s : State),
    Completes (.jsr w) s fun t =>
      t.pc = w ∧ t.sp = s.sp - 2 ∧ t.cycles = 6 ∧
      Stored [(stackAddr s.sp, hi (s.pc - 1)), (stackAddr (s.sp - 1), lo (s.pc - 1))] s t ∧
      t.bus = [.write (stackAddr (s.sp - 1)) (lo (s.pc - 1)), .write (stackAddr s.sp) (hi (s.pc - 1))] ++
        s.bus ∧
      t.a = s.a ∧ t.x = s.x ∧ t.y = s.y ∧ t.p = s.p ∧ AddressTransients (.abs w) s t ∧
      SurroundingsKept s t

/-- The two pops of a return address, low byte first. -/
def popLow (s : State) : Byte := s.readValue (stackAddr (s.sp + 1))

/-- The high byte, read after the low one. -/
def popHigh (s : State) : Byte :=
  ({ s with bus := .read (stackAddr (s.sp + 1)) (popLow s) :: s.bus } : State).readValue
    (stackAddr (s.sp + 2))

/-- RTS (45_branch_jump.md R202): one past the popped address. -/
def Obligations.RtsReturnsPastThePoppedAddress : Prop :=
  ∀ s : State,
    Completes .rts s fun t =>
      t.pc.toNat = ((popHigh s).toNat * 256 + (popLow s).toNat + 1) % 65536 ∧ t.sp = s.sp + 2 ∧
      t.cycles = 6 ∧
      t.bus = [.read (stackAddr (s.sp + 2)) (popHigh s), .read (stackAddr (s.sp + 1)) (popLow s)] ++ s.bus ∧
      t.a = s.a ∧ t.x = s.x ∧ t.y = s.y ∧ t.p = s.p ∧ MemoryKept s t ∧ ImpliedTransients s t ∧
      SurroundingsKept s t

/-- RTS right after JSR comes back to the instruction after the JSR with `SP` restored, when the stack is
plain memory (45_branch_jump.md R201, R202). -/
def Obligations.RtsUndoesJsr : Prop :=
  ∀ (w : Word) (s t : State), StackRam s 2 → exec (.jsr w) s = .next t →
    Completes .rts t fun u => u.pc = s.pc ∧ u.sp = s.sp

/-! ### Stack, flags, system -/

/-- PHA and PHP (46_stack_flags_system.md R211, R212, R213): one push; PHP pushes `P` with Break and
Unused set and leaves the register alone. -/
def Obligations.PushesStoreOneByte : Prop :=
  ∀ s : State,
    let post := fun (v : Byte) (t : State) =>
      t.sp = s.sp - 1 ∧ Stored [(stackAddr s.sp, v)] s t ∧
      t.bus = .write (stackAddr s.sp) v :: s.bus ∧ t.p = s.p ∧ t.a = s.a ∧ t.x = s.x ∧ t.y = s.y ∧
      t.pc = s.pc ∧ t.cycles = 3 ∧ ImpliedTransients s t ∧ SurroundingsKept s t
    Completes .pha s (post s.a) ∧ Completes .php s (post (s.p ||| 0x30))

/-- PLA and PLP (46_stack_flags_system.md R211, R214, R215): one pop; PLP loads C, Z, I, D, V, N, forces
Unused, and discards the popped Break bit. -/
def Obligations.PullsLoadOneByte : Prop :=
  ∀ s : State,
    let v := popLow s
    let post := fun t : State =>
      t.sp = s.sp + 1 ∧ t.bus = .read (stackAddr (s.sp + 1)) v :: s.bus ∧ t.x = s.x ∧ t.y = s.y ∧
      t.pc = s.pc ∧ t.cycles = 4 ∧ MemoryKept s t ∧ ImpliedTransients s t ∧ SurroundingsKept s t
    (Completes .pla s fun t => t.a = v ∧ ZNOf v t ∧ FlagsKeptOutside [.z, .n] s t ∧ post t) ∧
    (Completes .plp s fun t =>
      (∀ f, f ≠ .b → f ≠ .u → t.flag f = getFlag v f) ∧ t.flag .u = true ∧ t.flag .b = s.flag .b ∧
      t.a = s.a ∧ post t)

/-- The push and pop round trip (46_stack_flags_system.md R228): PHP then PLP leaves `P` as it was, PHA
then PLP gives `(A & 0xCF) | 0x20` when Break is clear, PHP then PLA gives `P | 0x30`. -/
def Obligations.StatusRoundTrip : Prop :=
  ∀ s t : State, s.flag .u = true → s.flag .b = false → StackRam s 1 →
    (exec .php s = .next t →
      (Completes .plp t fun u => u.p = s.p ∧ u.sp = s.sp) ∧
      (Completes .pla t fun u => u.a = s.p ||| 0x30 ∧ u.sp = s.sp)) ∧
    (exec .pha s = .next t →
      Completes .plp t fun u => u.p = (s.a &&& 0xCF) ||| 0x20 ∧ u.sp = s.sp)

/-- What an instruction that writes one flag does. -/
def WritesFlag (i : Instr) (f : Flag) (v : Bool) : Prop :=
  ∀ s : State, Completes i s fun t =>
    t.flag f = v ∧ FlagsKeptOutside [f] s t ∧ t.a = s.a ∧ t.x = s.x ∧ t.y = s.y ∧ t.sp = s.sp ∧
    RegisterOnly s t

/-- CLC, CLD, CLI, CLV, SEC, SED, SEI (46_stack_flags_system.md R216 to R222). -/
def Obligations.FlagInstructionsWriteOneFlag : Prop :=
  WritesFlag .clc .c false ∧ WritesFlag .cld .d false ∧ WritesFlag .cli .i false ∧
  WritesFlag .clv .v false ∧ WritesFlag .sec .c true ∧ WritesFlag .sed .d true ∧
  WritesFlag .sei .i true

/-- NOP and every trap slot do nothing but cost their cycles (46_stack_flags_system.md R223, R226): a
trap its UNDOC_CYCLES cost, with no penalty even for the six signalling slots. -/
def Obligations.NopAndTrapsDoNothing : Prop :=
  ∀ (s : State) (opcode : Byte),
    exec .nop s = .next { s with fetched := s.a, cycles := 2 } ∧
    exec (.trap opcode) s = .next { s with fetched := s.a, cycles := trapCycles s.platform opcode }

/-- BRK (46_stack_flags_system.md R224, 60_exceptions.md R244): the interrupt entry through 0xFFFE/F
with the address two past the opcode and `P | 0x30` pushed, whatever Interrupt-disable says. -/
def Obligations.BrkEntersTheInterrupt : Prop :=
  ∀ s : State,
    let ret := s.pc + 1
    let pushes : List BusOp :=
      [.write (stackAddr (s.sp - 2)) (s.p ||| 0x30), .write (stackAddr (s.sp - 1)) (lo ret),
        .write (stackAddr s.sp) (hi ret)]
    let pushed : State := { s with mem := replay s.platform pushes s.mem, bus := pushes ++ s.bus }
    let l := pushed.readValue 0xFFFE
    let h := ({ pushed with bus := .read 0xFFFE l :: pushed.bus } : State).readValue 0xFFFF
    Completes .brk s fun t =>
      t.pc = join h l ∧ t.sp = s.sp - 3 ∧ t.flag .i = true ∧ FlagsKeptOutside [.i] s t ∧ t.cycles = 7 ∧
      t.bus = [.read 0xFFFF h, .read 0xFFFE l] ++ pushes ++ s.bus ∧
      Stored [(stackAddr s.sp, hi ret), (stackAddr (s.sp - 1), lo ret),
        (stackAddr (s.sp - 2), s.p ||| 0x30)] s t ∧
      t.a = s.a ∧ t.x = s.x ∧ t.y = s.y ∧ ImpliedTransients s t ∧ SurroundingsKept s t

/-- RTI (46_stack_flags_system.md R225, 60_exceptions.md R250): status, then `pc` low and high, no plus
one; Unused forced, the popped Break bit discarded. -/
def Obligations.RtiRestoresStatusAndPc : Prop :=
  ∀ s : State,
    let st := popLow s
    let popped : State := { s with sp := s.sp + 1, bus := .read (stackAddr (s.sp + 1)) st :: s.bus }
    Completes .rti s fun t =>
      (∀ f, f ≠ .b → f ≠ .u → t.flag f = getFlag st f) ∧ t.flag .u = true ∧ t.flag .b = s.flag .b ∧
      t.pc = join (popHigh popped) (popLow popped) ∧ t.sp = s.sp + 3 ∧ t.cycles = 6 ∧
      t.bus = [.read (stackAddr (s.sp + 3)) (popHigh popped), .read (stackAddr (s.sp + 2)) (popLow popped),
        .read (stackAddr (s.sp + 1)) st] ++ s.bus ∧
      t.a = s.a ∧ t.x = s.x ∧ t.y = s.y ∧ MemoryKept s t ∧ ImpliedTransients s t ∧ SurroundingsKept s t

/-! ### Whole-machine rules -/

/-- Who writes the registers and memory (10_state.md R21 to R25, 42_load_store_transfer.md R140,
44_shift_rotate.md R180, 20_memory.md R62): outside the listed operations `A`, `X`, `Y`, `SP`, the
post-fetch `pc` and every byte of memory keep their values. -/
def Obligations.RegisterAndMemoryWriters : Prop :=
  ∀ (i : Instr) (s t : State), exec i s = .next t →
    (t.a ≠ s.a → i.op ∈ [.lda, .pla, .txa, .tya, .adc, .sbc, .sbcEb, .and, .ora, .eor] ∨
      (i.op ∈ [.asl, .lsr, .rol, .ror] ∧ i.mode = .imp)) ∧
    (t.x ≠ s.x → i.op ∈ [.ldx, .tax, .tsx, .inx, .dex]) ∧
    (t.y ≠ s.y → i.op ∈ [.ldy, .tay, .iny, .dey]) ∧
    (t.sp ≠ s.sp → i.op ∈ [.txs, .pha, .php, .pla, .plp, .jsr, .rts, .brk, .rti]) ∧
    (t.pc ≠ s.pc → i.op ∈ [.jmp, .jsr, .rts, .rti, .brk] ∨ i.mode.format = .rel) ∧
    (¬ MemoryKept s t → i.op ∈ [.sta, .stx, .sty, .inc, .dec, .pha, .php, .jsr, .brk] ∨
      (i.op ∈ [.asl, .lsr, .rol, .ror] ∧ i.mode ≠ .imp))

/-- Who writes the flags (10_state.md R27 to R34): outside the listed operations each flag keeps its
value, and the register's Break bit never changes. -/
def Obligations.FlagWriters : Prop :=
  ∀ (i : Instr) (s t : State), exec i s = .next t →
    t.flag .b = s.flag .b ∧
    (t.flag .u ≠ s.flag .u → i.op ∈ [.plp, .rti] ∧ t.flag .u = true) ∧
    (t.flag .d ≠ s.flag .d → i.op ∈ [.sed, .cld, .plp, .rti]) ∧
    (t.flag .i ≠ s.flag .i → i.op ∈ [.sei, .cli, .brk, .plp, .rti]) ∧
    (t.flag .v ≠ s.flag .v → i.op ∈ [.adc, .sbc, .sbcEb, .bit, .clv, .plp, .rti]) ∧
    (t.flag .c ≠ s.flag .c →
      i.op ∈ [.adc, .sbc, .sbcEb, .cmp, .cpx, .cpy, .asl, .rol, .lsr, .ror, .clc, .sec, .plp, .rti]) ∧
    (t.flag .z ≠ s.flag .z ∨ t.flag .n ≠ s.flag .n →
      i.op ∈ [.lda, .ldx, .ldy, .tax, .tay, .tsx, .txa, .tya, .pla, .adc, .sbc, .sbcEb, .and, .ora, .eor,
        .bit, .cmp, .cpx, .cpy, .inc, .dec, .inx, .iny, .dex, .dey, .asl, .lsr, .rol, .ror, .plp, .rti])

/-- The invariant holds right after reset (10_state.md R40). -/
def Obligations.InvariantAtReset : Prop := Inv State.reset

/-- Every step keeps the invariant: memory in canonical form, UNDOC_CYCLES in range, and after a `Reset`
Unused set, Break clear and the countdown at most 8, from every state that has it
(95_test_vectors.md Part 4, 10_state.md R31, R32, R37). -/
def Obligations.InvariantKept : Prop :=
  ∀ s t : State, Inv s → step s = .next t → Inv t

/-- The placing of an instruction (log 11): whatever the state, the next step fetches the instruction of
the table word, all its bytes before it runs (log 7), and runs it. -/
def Obligations.PlacedWordRunsNext : Prop :=
  ∀ (s : State) (nbits w : Nat) (i : Instr), decodeTableWord nbits w = some i →
    let s' := s.withFetchWord nbits w
    s'.nextEvent.1 = .tick ∧ step s' = countOutcome (exec i (afterFetch (encode i) s'.nextEvent.2))
end

