-- ==== Sys2Proof/Laws/State.lean ====
section
/-! SUPPORT. One lemma a field for each basic update of State, true by rfl: no later proof unfolds a
record update. -/

namespace Sys2Proof.Machine

/-! ### `withFlag` -/

@[simp] theorem withFlag_a (s : State) (f : Flag) (v : Bool) : (s.withFlag f v).a = s.a := rfl
@[simp] theorem withFlag_x (s : State) (f : Flag) (v : Bool) : (s.withFlag f v).x = s.x := rfl
@[simp] theorem withFlag_y (s : State) (f : Flag) (v : Bool) : (s.withFlag f v).y = s.y := rfl
@[simp] theorem withFlag_sp (s : State) (f : Flag) (v : Bool) : (s.withFlag f v).sp = s.sp := rfl
@[simp] theorem withFlag_pc (s : State) (f : Flag) (v : Bool) : (s.withFlag f v).pc = s.pc := rfl
@[simp] theorem withFlag_p (s : State) (f : Flag) (v : Bool) : (s.withFlag f v).p = setFlag s.p f v := rfl
@[simp] theorem withFlag_cycles (s : State) (f : Flag) (v : Bool) : (s.withFlag f v).cycles = s.cycles := rfl
@[simp] theorem withFlag_totalCycles (s : State) (f : Flag) (v : Bool) : (s.withFlag f v).totalCycles = s.totalCycles := rfl
@[simp] theorem withFlag_opcode (s : State) (f : Flag) (v : Bool) : (s.withFlag f v).opcode = s.opcode := rfl
@[simp] theorem withFlag_fetched (s : State) (f : Flag) (v : Bool) : (s.withFlag f v).fetched = s.fetched := rfl
@[simp] theorem withFlag_temp (s : State) (f : Flag) (v : Bool) : (s.withFlag f v).temp = s.temp := rfl
@[simp] theorem withFlag_addrAbs (s : State) (f : Flag) (v : Bool) : (s.withFlag f v).addrAbs = s.addrAbs := rfl
@[simp] theorem withFlag_addrRel (s : State) (f : Flag) (v : Bool) : (s.withFlag f v).addrRel = s.addrRel := rfl
@[simp] theorem withFlag_mem (s : State) (f : Flag) (v : Bool) : (s.withFlag f v).mem = s.mem := rfl
@[simp] theorem withFlag_bus (s : State) (f : Flag) (v : Bool) : (s.withFlag f v).bus = s.bus := rfl
@[simp] theorem withFlag_hostCalls (s : State) (f : Flag) (v : Bool) : (s.withFlag f v).hostCalls = s.hostCalls := rfl
@[simp] theorem withFlag_hasReset (s : State) (f : Flag) (v : Bool) : (s.withFlag f v).hasReset = s.hasReset := rfl
@[simp] theorem withFlag_platform (s : State) (f : Flag) (v : Bool) : (s.withFlag f v).platform = s.platform := rfl

/-! ### `setZN` -/

@[simp] theorem setZN_a (s : State) (v : Byte) : (s.setZN v).a = s.a := rfl
@[simp] theorem setZN_x (s : State) (v : Byte) : (s.setZN v).x = s.x := rfl
@[simp] theorem setZN_y (s : State) (v : Byte) : (s.setZN v).y = s.y := rfl
@[simp] theorem setZN_sp (s : State) (v : Byte) : (s.setZN v).sp = s.sp := rfl
@[simp] theorem setZN_pc (s : State) (v : Byte) : (s.setZN v).pc = s.pc := rfl
@[simp] theorem setZN_p (s : State) (v : Byte) : (s.setZN v).p = znFlags s.p v := rfl
@[simp] theorem setZN_cycles (s : State) (v : Byte) : (s.setZN v).cycles = s.cycles := rfl
@[simp] theorem setZN_totalCycles (s : State) (v : Byte) : (s.setZN v).totalCycles = s.totalCycles := rfl
@[simp] theorem setZN_opcode (s : State) (v : Byte) : (s.setZN v).opcode = s.opcode := rfl
@[simp] theorem setZN_fetched (s : State) (v : Byte) : (s.setZN v).fetched = s.fetched := rfl
@[simp] theorem setZN_temp (s : State) (v : Byte) : (s.setZN v).temp = s.temp := rfl
@[simp] theorem setZN_addrAbs (s : State) (v : Byte) : (s.setZN v).addrAbs = s.addrAbs := rfl
@[simp] theorem setZN_addrRel (s : State) (v : Byte) : (s.setZN v).addrRel = s.addrRel := rfl
@[simp] theorem setZN_mem (s : State) (v : Byte) : (s.setZN v).mem = s.mem := rfl
@[simp] theorem setZN_bus (s : State) (v : Byte) : (s.setZN v).bus = s.bus := rfl
@[simp] theorem setZN_hostCalls (s : State) (v : Byte) : (s.setZN v).hostCalls = s.hostCalls := rfl
@[simp] theorem setZN_hasReset (s : State) (v : Byte) : (s.setZN v).hasReset = s.hasReset := rfl
@[simp] theorem setZN_platform (s : State) (v : Byte) : (s.setZN v).platform = s.platform := rfl

/-! ### `startCycles` -/

@[simp] theorem startCycles_a (s : State) (n : Nat) : (s.startCycles n).a = s.a := rfl
@[simp] theorem startCycles_x (s : State) (n : Nat) : (s.startCycles n).x = s.x := rfl
@[simp] theorem startCycles_y (s : State) (n : Nat) : (s.startCycles n).y = s.y := rfl
@[simp] theorem startCycles_sp (s : State) (n : Nat) : (s.startCycles n).sp = s.sp := rfl
@[simp] theorem startCycles_pc (s : State) (n : Nat) : (s.startCycles n).pc = s.pc := rfl
@[simp] theorem startCycles_p (s : State) (n : Nat) : (s.startCycles n).p = s.p := rfl
@[simp] theorem startCycles_cycles (s : State) (n : Nat) : (s.startCycles n).cycles = n := rfl
@[simp] theorem startCycles_totalCycles (s : State) (n : Nat) : (s.startCycles n).totalCycles = s.totalCycles := rfl
@[simp] theorem startCycles_opcode (s : State) (n : Nat) : (s.startCycles n).opcode = s.opcode := rfl
@[simp] theorem startCycles_fetched (s : State) (n : Nat) : (s.startCycles n).fetched = s.fetched := rfl
@[simp] theorem startCycles_temp (s : State) (n : Nat) : (s.startCycles n).temp = s.temp := rfl
@[simp] theorem startCycles_addrAbs (s : State) (n : Nat) : (s.startCycles n).addrAbs = s.addrAbs := rfl
@[simp] theorem startCycles_addrRel (s : State) (n : Nat) : (s.startCycles n).addrRel = s.addrRel := rfl
@[simp] theorem startCycles_mem (s : State) (n : Nat) : (s.startCycles n).mem = s.mem := rfl
@[simp] theorem startCycles_bus (s : State) (n : Nat) : (s.startCycles n).bus = s.bus := rfl
@[simp] theorem startCycles_hostCalls (s : State) (n : Nat) : (s.startCycles n).hostCalls = s.hostCalls := rfl
@[simp] theorem startCycles_hasReset (s : State) (n : Nat) : (s.startCycles n).hasReset = s.hasReset := rfl
@[simp] theorem startCycles_platform (s : State) (n : Nat) : (s.startCycles n).platform = s.platform := rfl

/-! ### `penalty` -/

@[simp] theorem penalty_a (s : State) (e : Bool) : (s.penalty e).a = s.a := rfl
@[simp] theorem penalty_x (s : State) (e : Bool) : (s.penalty e).x = s.x := rfl
@[simp] theorem penalty_y (s : State) (e : Bool) : (s.penalty e).y = s.y := rfl
@[simp] theorem penalty_sp (s : State) (e : Bool) : (s.penalty e).sp = s.sp := rfl
@[simp] theorem penalty_pc (s : State) (e : Bool) : (s.penalty e).pc = s.pc := rfl
@[simp] theorem penalty_p (s : State) (e : Bool) : (s.penalty e).p = s.p := rfl
@[simp] theorem penalty_cycles (s : State) (e : Bool) : (s.penalty e).cycles = s.cycles + e.toNat := rfl
@[simp] theorem penalty_totalCycles (s : State) (e : Bool) : (s.penalty e).totalCycles = s.totalCycles := rfl
@[simp] theorem penalty_opcode (s : State) (e : Bool) : (s.penalty e).opcode = s.opcode := rfl
@[simp] theorem penalty_fetched (s : State) (e : Bool) : (s.penalty e).fetched = s.fetched := rfl
@[simp] theorem penalty_temp (s : State) (e : Bool) : (s.penalty e).temp = s.temp := rfl
@[simp] theorem penalty_addrAbs (s : State) (e : Bool) : (s.penalty e).addrAbs = s.addrAbs := rfl
@[simp] theorem penalty_addrRel (s : State) (e : Bool) : (s.penalty e).addrRel = s.addrRel := rfl
@[simp] theorem penalty_mem (s : State) (e : Bool) : (s.penalty e).mem = s.mem := rfl
@[simp] theorem penalty_bus (s : State) (e : Bool) : (s.penalty e).bus = s.bus := rfl
@[simp] theorem penalty_hostCalls (s : State) (e : Bool) : (s.penalty e).hostCalls = s.hostCalls := rfl
@[simp] theorem penalty_hasReset (s : State) (e : Bool) : (s.penalty e).hasReset = s.hasReset := rfl
@[simp] theorem penalty_platform (s : State) (e : Bool) : (s.penalty e).platform = s.platform := rfl

/-! ### `countTick` -/

@[simp] theorem countTick_a (s : State) : s.countTick.a = s.a := rfl
@[simp] theorem countTick_x (s : State) : s.countTick.x = s.x := rfl
@[simp] theorem countTick_y (s : State) : s.countTick.y = s.y := rfl
@[simp] theorem countTick_sp (s : State) : s.countTick.sp = s.sp := rfl
@[simp] theorem countTick_pc (s : State) : s.countTick.pc = s.pc := rfl
@[simp] theorem countTick_p (s : State) : s.countTick.p = s.p := rfl
@[simp] theorem countTick_cycles (s : State) : s.countTick.cycles = s.cycles - 1 := rfl
@[simp] theorem countTick_totalCycles (s : State) : s.countTick.totalCycles = s.totalCycles + 1 := rfl
@[simp] theorem countTick_opcode (s : State) : s.countTick.opcode = s.opcode := rfl
@[simp] theorem countTick_fetched (s : State) : s.countTick.fetched = s.fetched := rfl
@[simp] theorem countTick_temp (s : State) : s.countTick.temp = s.temp := rfl
@[simp] theorem countTick_addrAbs (s : State) : s.countTick.addrAbs = s.addrAbs := rfl
@[simp] theorem countTick_addrRel (s : State) : s.countTick.addrRel = s.addrRel := rfl
@[simp] theorem countTick_mem (s : State) : s.countTick.mem = s.mem := rfl
@[simp] theorem countTick_bus (s : State) : s.countTick.bus = s.bus := rfl
@[simp] theorem countTick_hostCalls (s : State) : s.countTick.hostCalls = s.hostCalls := rfl
@[simp] theorem countTick_hasReset (s : State) : s.countTick.hasReset = s.hasReset := rfl
@[simp] theorem countTick_platform (s : State) : s.countTick.platform = s.platform := rfl

/-! ### `memRead` -/

@[simp] theorem memRead_a (s : State) (w : Word) : (s.memRead w).2.a = s.a := rfl
@[simp] theorem memRead_x (s : State) (w : Word) : (s.memRead w).2.x = s.x := rfl
@[simp] theorem memRead_y (s : State) (w : Word) : (s.memRead w).2.y = s.y := rfl
@[simp] theorem memRead_sp (s : State) (w : Word) : (s.memRead w).2.sp = s.sp := rfl
@[simp] theorem memRead_pc (s : State) (w : Word) : (s.memRead w).2.pc = s.pc := rfl
@[simp] theorem memRead_p (s : State) (w : Word) : (s.memRead w).2.p = s.p := rfl
@[simp] theorem memRead_cycles (s : State) (w : Word) : (s.memRead w).2.cycles = s.cycles := rfl
@[simp] theorem memRead_totalCycles (s : State) (w : Word) : (s.memRead w).2.totalCycles = s.totalCycles := rfl
@[simp] theorem memRead_opcode (s : State) (w : Word) : (s.memRead w).2.opcode = s.opcode := rfl
@[simp] theorem memRead_fetched (s : State) (w : Word) : (s.memRead w).2.fetched = s.fetched := rfl
@[simp] theorem memRead_temp (s : State) (w : Word) : (s.memRead w).2.temp = s.temp := rfl
@[simp] theorem memRead_addrAbs (s : State) (w : Word) : (s.memRead w).2.addrAbs = s.addrAbs := rfl
@[simp] theorem memRead_addrRel (s : State) (w : Word) : (s.memRead w).2.addrRel = s.addrRel := rfl
@[simp] theorem memRead_mem (s : State) (w : Word) : (s.memRead w).2.mem = s.mem := rfl
@[simp] theorem memRead_bus (s : State) (w : Word) : (s.memRead w).2.bus = .read w (s.readValue w) :: s.bus := rfl
@[simp] theorem memRead_hostCalls (s : State) (w : Word) : (s.memRead w).2.hostCalls = s.hostCalls := rfl
@[simp] theorem memRead_hasReset (s : State) (w : Word) : (s.memRead w).2.hasReset = s.hasReset := rfl
@[simp] theorem memRead_platform (s : State) (w : Word) : (s.memRead w).2.platform = s.platform := rfl

@[simp] theorem memRead_value (s : State) (w : Word) : (s.memRead w).1 = s.readValue w := rfl

/-! ### `memWrite` -/

@[simp] theorem memWrite_a (s : State) (w : Word) (v : Byte) : (s.memWrite w v).a = s.a := rfl
@[simp] theorem memWrite_x (s : State) (w : Word) (v : Byte) : (s.memWrite w v).x = s.x := rfl
@[simp] theorem memWrite_y (s : State) (w : Word) (v : Byte) : (s.memWrite w v).y = s.y := rfl
@[simp] theorem memWrite_sp (s : State) (w : Word) (v : Byte) : (s.memWrite w v).sp = s.sp := rfl
@[simp] theorem memWrite_pc (s : State) (w : Word) (v : Byte) : (s.memWrite w v).pc = s.pc := rfl
@[simp] theorem memWrite_p (s : State) (w : Word) (v : Byte) : (s.memWrite w v).p = s.p := rfl
@[simp] theorem memWrite_cycles (s : State) (w : Word) (v : Byte) : (s.memWrite w v).cycles = s.cycles := rfl
@[simp] theorem memWrite_totalCycles (s : State) (w : Word) (v : Byte) : (s.memWrite w v).totalCycles = s.totalCycles := rfl
@[simp] theorem memWrite_opcode (s : State) (w : Word) (v : Byte) : (s.memWrite w v).opcode = s.opcode := rfl
@[simp] theorem memWrite_fetched (s : State) (w : Word) (v : Byte) : (s.memWrite w v).fetched = s.fetched := rfl
@[simp] theorem memWrite_temp (s : State) (w : Word) (v : Byte) : (s.memWrite w v).temp = s.temp := rfl
@[simp] theorem memWrite_addrAbs (s : State) (w : Word) (v : Byte) : (s.memWrite w v).addrAbs = s.addrAbs := rfl
@[simp] theorem memWrite_addrRel (s : State) (w : Word) (v : Byte) : (s.memWrite w v).addrRel = s.addrRel := rfl
@[simp] theorem memWrite_mem (s : State) (w : Word) (v : Byte) : (s.memWrite w v).mem = (if ramAt s.platform w then s.mem.write w.toNat v else s.mem) := rfl
@[simp] theorem memWrite_bus (s : State) (w : Word) (v : Byte) : (s.memWrite w v).bus = .write w v :: s.bus := rfl
@[simp] theorem memWrite_hostCalls (s : State) (w : Word) (v : Byte) : (s.memWrite w v).hostCalls = s.hostCalls := rfl
@[simp] theorem memWrite_hasReset (s : State) (w : Word) (v : Byte) : (s.memWrite w v).hasReset = s.hasReset := rfl
@[simp] theorem memWrite_platform (s : State) (w : Word) (v : Byte) : (s.memWrite w v).platform = s.platform := rfl

/-! ### `push` -/

@[simp] theorem push_a (s : State) (v : Byte) : (s.push v).a = s.a := rfl
@[simp] theorem push_x (s : State) (v : Byte) : (s.push v).x = s.x := rfl
@[simp] theorem push_y (s : State) (v : Byte) : (s.push v).y = s.y := rfl
@[simp] theorem push_sp (s : State) (v : Byte) : (s.push v).sp = s.sp - 1 := rfl
@[simp] theorem push_pc (s : State) (v : Byte) : (s.push v).pc = s.pc := rfl
@[simp] theorem push_p (s : State) (v : Byte) : (s.push v).p = s.p := rfl
@[simp] theorem push_cycles (s : State) (v : Byte) : (s.push v).cycles = s.cycles := rfl
@[simp] theorem push_totalCycles (s : State) (v : Byte) : (s.push v).totalCycles = s.totalCycles := rfl
@[simp] theorem push_opcode (s : State) (v : Byte) : (s.push v).opcode = s.opcode := rfl
@[simp] theorem push_fetched (s : State) (v : Byte) : (s.push v).fetched = s.fetched := rfl
@[simp] theorem push_temp (s : State) (v : Byte) : (s.push v).temp = s.temp := rfl
@[simp] theorem push_addrAbs (s : State) (v : Byte) : (s.push v).addrAbs = s.addrAbs := rfl
@[simp] theorem push_addrRel (s : State) (v : Byte) : (s.push v).addrRel = s.addrRel := rfl
@[simp] theorem push_mem (s : State) (v : Byte) : (s.push v).mem = (if ramAt s.platform (stackAddr s.sp) then s.mem.write (stackAddr s.sp).toNat v else s.mem) := rfl
@[simp] theorem push_bus (s : State) (v : Byte) : (s.push v).bus = .write (stackAddr s.sp) v :: s.bus := rfl
@[simp] theorem push_hostCalls (s : State) (v : Byte) : (s.push v).hostCalls = s.hostCalls := rfl
@[simp] theorem push_hasReset (s : State) (v : Byte) : (s.push v).hasReset = s.hasReset := rfl
@[simp] theorem push_platform (s : State) (v : Byte) : (s.push v).platform = s.platform := rfl

/-! ### `pop` -/

@[simp] theorem pop_a (s : State) : s.pop.2.a = s.a := rfl
@[simp] theorem pop_x (s : State) : s.pop.2.x = s.x := rfl
@[simp] theorem pop_y (s : State) : s.pop.2.y = s.y := rfl
@[simp] theorem pop_sp (s : State) : s.pop.2.sp = s.sp + 1 := rfl
@[simp] theorem pop_pc (s : State) : s.pop.2.pc = s.pc := rfl
@[simp] theorem pop_p (s : State) : s.pop.2.p = s.p := rfl
@[simp] theorem pop_cycles (s : State) : s.pop.2.cycles = s.cycles := rfl
@[simp] theorem pop_totalCycles (s : State) : s.pop.2.totalCycles = s.totalCycles := rfl
@[simp] theorem pop_opcode (s : State) : s.pop.2.opcode = s.opcode := rfl
@[simp] theorem pop_fetched (s : State) : s.pop.2.fetched = s.fetched := rfl
@[simp] theorem pop_temp (s : State) : s.pop.2.temp = s.temp := rfl
@[simp] theorem pop_addrAbs (s : State) : s.pop.2.addrAbs = s.addrAbs := rfl
@[simp] theorem pop_addrRel (s : State) : s.pop.2.addrRel = s.addrRel := rfl
@[simp] theorem pop_mem (s : State) : s.pop.2.mem = s.mem := rfl
@[simp] theorem pop_bus (s : State) : s.pop.2.bus = .read (stackAddr (s.sp + 1)) (s.readValue (stackAddr (s.sp + 1))) :: s.bus := rfl
@[simp] theorem pop_hostCalls (s : State) : s.pop.2.hostCalls = s.hostCalls := rfl
@[simp] theorem pop_hasReset (s : State) : s.pop.2.hasReset = s.hasReset := rfl
@[simp] theorem pop_platform (s : State) : s.pop.2.platform = s.platform := rfl

@[simp] theorem pop_value (s : State) : s.pop.1 = s.readValue (stackAddr (s.sp + 1)) := rfl

/-! ### The operations made of these: what they keep, and where `SP` goes -/

/-! ### `read16` -/

@[simp] theorem read16_a (s : State) (u w : Word) : (s.read16 u w).2.a = s.a := rfl
@[simp] theorem read16_x (s : State) (u w : Word) : (s.read16 u w).2.x = s.x := rfl
@[simp] theorem read16_y (s : State) (u w : Word) : (s.read16 u w).2.y = s.y := rfl
@[simp] theorem read16_sp (s : State) (u w : Word) : (s.read16 u w).2.sp = s.sp := rfl
@[simp] theorem read16_pc (s : State) (u w : Word) : (s.read16 u w).2.pc = s.pc := rfl
@[simp] theorem read16_p (s : State) (u w : Word) : (s.read16 u w).2.p = s.p := rfl
@[simp] theorem read16_cycles (s : State) (u w : Word) : (s.read16 u w).2.cycles = s.cycles := rfl
@[simp] theorem read16_totalCycles (s : State) (u w : Word) : (s.read16 u w).2.totalCycles = s.totalCycles := rfl
@[simp] theorem read16_opcode (s : State) (u w : Word) : (s.read16 u w).2.opcode = s.opcode := rfl
@[simp] theorem read16_fetched (s : State) (u w : Word) : (s.read16 u w).2.fetched = s.fetched := rfl
@[simp] theorem read16_temp (s : State) (u w : Word) : (s.read16 u w).2.temp = s.temp := rfl
@[simp] theorem read16_addrAbs (s : State) (u w : Word) : (s.read16 u w).2.addrAbs = s.addrAbs := rfl
@[simp] theorem read16_addrRel (s : State) (u w : Word) : (s.read16 u w).2.addrRel = s.addrRel := rfl
@[simp] theorem read16_mem (s : State) (u w : Word) : (s.read16 u w).2.mem = s.mem := rfl
@[simp] theorem read16_hostCalls (s : State) (u w : Word) : (s.read16 u w).2.hostCalls = s.hostCalls := rfl
@[simp] theorem read16_hasReset (s : State) (u w : Word) : (s.read16 u w).2.hasReset = s.hasReset := rfl
@[simp] theorem read16_platform (s : State) (u w : Word) : (s.read16 u w).2.platform = s.platform := rfl

/-! ### `pushWord` -/

@[simp] theorem pushWord_a (s : State) (w : Word) : (s.pushWord w).a = s.a := rfl
@[simp] theorem pushWord_x (s : State) (w : Word) : (s.pushWord w).x = s.x := rfl
@[simp] theorem pushWord_y (s : State) (w : Word) : (s.pushWord w).y = s.y := rfl
@[simp] theorem pushWord_sp (s : State) (w : Word) : (s.pushWord w).sp = s.sp - 1 - 1 := rfl
@[simp] theorem pushWord_pc (s : State) (w : Word) : (s.pushWord w).pc = s.pc := rfl
@[simp] theorem pushWord_p (s : State) (w : Word) : (s.pushWord w).p = s.p := rfl
@[simp] theorem pushWord_cycles (s : State) (w : Word) : (s.pushWord w).cycles = s.cycles := rfl
@[simp] theorem pushWord_totalCycles (s : State) (w : Word) : (s.pushWord w).totalCycles = s.totalCycles := rfl
@[simp] theorem pushWord_opcode (s : State) (w : Word) : (s.pushWord w).opcode = s.opcode := rfl
@[simp] theorem pushWord_fetched (s : State) (w : Word) : (s.pushWord w).fetched = s.fetched := rfl
@[simp] theorem pushWord_temp (s : State) (w : Word) : (s.pushWord w).temp = s.temp := rfl
@[simp] theorem pushWord_addrAbs (s : State) (w : Word) : (s.pushWord w).addrAbs = s.addrAbs := rfl
@[simp] theorem pushWord_addrRel (s : State) (w : Word) : (s.pushWord w).addrRel = s.addrRel := rfl
@[simp] theorem pushWord_hostCalls (s : State) (w : Word) : (s.pushWord w).hostCalls = s.hostCalls := rfl
@[simp] theorem pushWord_hasReset (s : State) (w : Word) : (s.pushWord w).hasReset = s.hasReset := rfl
@[simp] theorem pushWord_platform (s : State) (w : Word) : (s.pushWord w).platform = s.platform := rfl

/-! ### `popWord` -/

@[simp] theorem popWord_a (s : State) : s.popWord.2.a = s.a := rfl
@[simp] theorem popWord_x (s : State) : s.popWord.2.x = s.x := rfl
@[simp] theorem popWord_y (s : State) : s.popWord.2.y = s.y := rfl
@[simp] theorem popWord_sp (s : State) : s.popWord.2.sp = s.sp + 1 + 1 := rfl
@[simp] theorem popWord_pc (s : State) : s.popWord.2.pc = s.pc := rfl
@[simp] theorem popWord_p (s : State) : s.popWord.2.p = s.p := rfl
@[simp] theorem popWord_cycles (s : State) : s.popWord.2.cycles = s.cycles := rfl
@[simp] theorem popWord_totalCycles (s : State) : s.popWord.2.totalCycles = s.totalCycles := rfl
@[simp] theorem popWord_opcode (s : State) : s.popWord.2.opcode = s.opcode := rfl
@[simp] theorem popWord_fetched (s : State) : s.popWord.2.fetched = s.fetched := rfl
@[simp] theorem popWord_temp (s : State) : s.popWord.2.temp = s.temp := rfl
@[simp] theorem popWord_addrAbs (s : State) : s.popWord.2.addrAbs = s.addrAbs := rfl
@[simp] theorem popWord_addrRel (s : State) : s.popWord.2.addrRel = s.addrRel := rfl
@[simp] theorem popWord_mem (s : State) : s.popWord.2.mem = s.mem := rfl
@[simp] theorem popWord_hostCalls (s : State) : s.popWord.2.hostCalls = s.hostCalls := rfl
@[simp] theorem popWord_hasReset (s : State) : s.popWord.2.hasReset = s.hasReset := rfl
@[simp] theorem popWord_platform (s : State) : s.popWord.2.platform = s.platform := rfl

/-! ### `pushP` -/

@[simp] theorem pushP_a (s : State) (b : Bool) : (s.pushP b).a = s.a := rfl
@[simp] theorem pushP_x (s : State) (b : Bool) : (s.pushP b).x = s.x := rfl
@[simp] theorem pushP_y (s : State) (b : Bool) : (s.pushP b).y = s.y := rfl
@[simp] theorem pushP_sp (s : State) (b : Bool) : (s.pushP b).sp = s.sp - 1 := rfl
@[simp] theorem pushP_pc (s : State) (b : Bool) : (s.pushP b).pc = s.pc := rfl
@[simp] theorem pushP_p (s : State) (b : Bool) : (s.pushP b).p = s.p := rfl
@[simp] theorem pushP_cycles (s : State) (b : Bool) : (s.pushP b).cycles = s.cycles := rfl
@[simp] theorem pushP_totalCycles (s : State) (b : Bool) : (s.pushP b).totalCycles = s.totalCycles := rfl
@[simp] theorem pushP_opcode (s : State) (b : Bool) : (s.pushP b).opcode = s.opcode := rfl
@[simp] theorem pushP_fetched (s : State) (b : Bool) : (s.pushP b).fetched = s.fetched := rfl
@[simp] theorem pushP_temp (s : State) (b : Bool) : (s.pushP b).temp = s.temp := rfl
@[simp] theorem pushP_addrAbs (s : State) (b : Bool) : (s.pushP b).addrAbs = s.addrAbs := rfl
@[simp] theorem pushP_addrRel (s : State) (b : Bool) : (s.pushP b).addrRel = s.addrRel := rfl
@[simp] theorem pushP_hostCalls (s : State) (b : Bool) : (s.pushP b).hostCalls = s.hostCalls := rfl
@[simp] theorem pushP_hasReset (s : State) (b : Bool) : (s.pushP b).hasReset = s.hasReset := rfl
@[simp] theorem pushP_platform (s : State) (b : Bool) : (s.pushP b).platform = s.platform := rfl

/-! ### `popP` -/

@[simp] theorem popP_a (s : State) : s.popP.a = s.a := rfl
@[simp] theorem popP_x (s : State) : s.popP.x = s.x := rfl
@[simp] theorem popP_y (s : State) : s.popP.y = s.y := rfl
@[simp] theorem popP_sp (s : State) : s.popP.sp = s.sp + 1 := rfl
@[simp] theorem popP_pc (s : State) : s.popP.pc = s.pc := rfl
@[simp] theorem popP_p (s : State) : s.popP.p = poppedStatus s.p s.pop.1 := rfl
@[simp] theorem popP_cycles (s : State) : s.popP.cycles = s.cycles := rfl
@[simp] theorem popP_totalCycles (s : State) : s.popP.totalCycles = s.totalCycles := rfl
@[simp] theorem popP_opcode (s : State) : s.popP.opcode = s.opcode := rfl
@[simp] theorem popP_fetched (s : State) : s.popP.fetched = s.fetched := rfl
@[simp] theorem popP_temp (s : State) : s.popP.temp = s.temp := rfl
@[simp] theorem popP_addrAbs (s : State) : s.popP.addrAbs = s.addrAbs := rfl
@[simp] theorem popP_addrRel (s : State) : s.popP.addrRel = s.addrRel := rfl
@[simp] theorem popP_mem (s : State) : s.popP.mem = s.mem := rfl
@[simp] theorem popP_hostCalls (s : State) : s.popP.hostCalls = s.hostCalls := rfl
@[simp] theorem popP_hasReset (s : State) : s.popP.hasReset = s.hasReset := rfl
@[simp] theorem popP_platform (s : State) : s.popP.platform = s.platform := rfl

/-! ### `enterInterrupt` -/

@[simp] theorem enterInterrupt_a (s : State) (b : Bool) (w : Word) : (s.enterInterrupt b w).a = s.a := by
  simp only [State.enterInterrupt, read16_a, withFlag_a, pushP_a, pushWord_a]
@[simp] theorem enterInterrupt_x (s : State) (b : Bool) (w : Word) : (s.enterInterrupt b w).x = s.x := by
  simp only [State.enterInterrupt, read16_x, withFlag_x, pushP_x, pushWord_x]
@[simp] theorem enterInterrupt_y (s : State) (b : Bool) (w : Word) : (s.enterInterrupt b w).y = s.y := by
  simp only [State.enterInterrupt, read16_y, withFlag_y, pushP_y, pushWord_y]
@[simp] theorem enterInterrupt_sp (s : State) (b : Bool) (w : Word) : (s.enterInterrupt b w).sp = s.sp - 1 - 1 - 1 := by
  simp only [State.enterInterrupt, read16_sp, withFlag_sp, pushP_sp, pushWord_sp]
@[simp] theorem enterInterrupt_p (s : State) (b : Bool) (w : Word) : (s.enterInterrupt b w).p = setFlag s.p .i true := by
  simp only [State.enterInterrupt, read16_p, withFlag_p, pushP_p, pushWord_p]
@[simp] theorem enterInterrupt_cycles (s : State) (b : Bool) (w : Word) : (s.enterInterrupt b w).cycles = s.cycles := by
  simp only [State.enterInterrupt, read16_cycles, withFlag_cycles, pushP_cycles, pushWord_cycles]
@[simp] theorem enterInterrupt_totalCycles (s : State) (b : Bool) (w : Word) : (s.enterInterrupt b w).totalCycles = s.totalCycles := by
  simp only [State.enterInterrupt, read16_totalCycles, withFlag_totalCycles, pushP_totalCycles, pushWord_totalCycles]
@[simp] theorem enterInterrupt_opcode (s : State) (b : Bool) (w : Word) : (s.enterInterrupt b w).opcode = s.opcode := by
  simp only [State.enterInterrupt, read16_opcode, withFlag_opcode, pushP_opcode, pushWord_opcode]
@[simp] theorem enterInterrupt_fetched (s : State) (b : Bool) (w : Word) : (s.enterInterrupt b w).fetched = s.fetched := by
  simp only [State.enterInterrupt, read16_fetched, withFlag_fetched, pushP_fetched, pushWord_fetched]
@[simp] theorem enterInterrupt_temp (s : State) (b : Bool) (w : Word) : (s.enterInterrupt b w).temp = s.temp := by
  simp only [State.enterInterrupt, read16_temp, withFlag_temp, pushP_temp, pushWord_temp]
@[simp] theorem enterInterrupt_addrAbs (s : State) (b : Bool) (w : Word) : (s.enterInterrupt b w).addrAbs = s.addrAbs := by
  simp only [State.enterInterrupt, read16_addrAbs, withFlag_addrAbs, pushP_addrAbs, pushWord_addrAbs]
@[simp] theorem enterInterrupt_addrRel (s : State) (b : Bool) (w : Word) : (s.enterInterrupt b w).addrRel = s.addrRel := by
  simp only [State.enterInterrupt, read16_addrRel, withFlag_addrRel, pushP_addrRel, pushWord_addrRel]
@[simp] theorem enterInterrupt_hostCalls (s : State) (b : Bool) (w : Word) : (s.enterInterrupt b w).hostCalls = s.hostCalls := by
  simp only [State.enterInterrupt, read16_hostCalls, withFlag_hostCalls, pushP_hostCalls, pushWord_hostCalls]
@[simp] theorem enterInterrupt_hasReset (s : State) (b : Bool) (w : Word) : (s.enterInterrupt b w).hasReset = s.hasReset := by
  simp only [State.enterInterrupt, read16_hasReset, withFlag_hasReset, pushP_hasReset, pushWord_hasReset]
@[simp] theorem enterInterrupt_platform (s : State) (b : Bool) (w : Word) : (s.enterInterrupt b w).platform = s.platform := by
  simp only [State.enterInterrupt, read16_platform, withFlag_platform, pushP_platform, pushWord_platform]

/-! ### `returnFromInterrupt` -/

@[simp] theorem returnFromInterrupt_a (s : State) : s.returnFromInterrupt.a = s.a := rfl
@[simp] theorem returnFromInterrupt_x (s : State) : s.returnFromInterrupt.x = s.x := rfl
@[simp] theorem returnFromInterrupt_y (s : State) : s.returnFromInterrupt.y = s.y := rfl
@[simp] theorem returnFromInterrupt_sp (s : State) : s.returnFromInterrupt.sp = s.sp + 1 + 1 + 1 := rfl
@[simp] theorem returnFromInterrupt_p (s : State) : s.returnFromInterrupt.p = poppedStatus s.p s.pop.1 := rfl
@[simp] theorem returnFromInterrupt_cycles (s : State) : s.returnFromInterrupt.cycles = s.cycles := rfl
@[simp] theorem returnFromInterrupt_totalCycles (s : State) : s.returnFromInterrupt.totalCycles = s.totalCycles := rfl
@[simp] theorem returnFromInterrupt_opcode (s : State) : s.returnFromInterrupt.opcode = s.opcode := rfl
@[simp] theorem returnFromInterrupt_fetched (s : State) : s.returnFromInterrupt.fetched = s.fetched := rfl
@[simp] theorem returnFromInterrupt_temp (s : State) : s.returnFromInterrupt.temp = s.temp := rfl
@[simp] theorem returnFromInterrupt_addrAbs (s : State) : s.returnFromInterrupt.addrAbs = s.addrAbs := rfl
@[simp] theorem returnFromInterrupt_addrRel (s : State) : s.returnFromInterrupt.addrRel = s.addrRel := rfl
@[simp] theorem returnFromInterrupt_mem (s : State) : s.returnFromInterrupt.mem = s.mem := rfl
@[simp] theorem returnFromInterrupt_hostCalls (s : State) : s.returnFromInterrupt.hostCalls = s.hostCalls := rfl
@[simp] theorem returnFromInterrupt_hasReset (s : State) : s.returnFromInterrupt.hasReset = s.hasReset := rfl
@[simp] theorem returnFromInterrupt_platform (s : State) : s.returnFromInterrupt.platform = s.platform := rfl

end Sys2Proof.Machine
end

