-- ==== Sys2Proof/Laws/Decode.lean ====
section
/-! SUPPORT. The small facts that decoding and encoding rest on: what `build`, the operand assembly and
the two opcode maps do with a mode (30_encoding.md R81 to R86). -/

namespace Sys2Proof

/-! ### Words and bytes (00_scope.md R7) -/

theorem hi_toNat (w : Word) : (hi w).toNat = w.toNat / 256 := by
  have := w.isLt
  simp only [hi, BitVec.extractLsb'_toNat, Nat.shiftRight_eq_div_pow]
  omega

theorem lo_toNat (w : Word) : (lo w).toNat = w.toNat % 256 := by
  simp [lo, BitVec.extractLsb'_toNat]

theorem join_toNat (h l : Byte) : (join h l).toNat = h.toNat * 256 + l.toNat := by
  have := h.isLt
  have := l.isLt
  simp only [join, BitVec.toNat_ofNat]
  omega

theorem zext16_toNat (b : Byte) : (zext16 b).toNat = b.toNat := by
  have := b.isLt
  simp only [zext16, BitVec.toNat_setWidth]
  omega

@[simp] theorem hi_join (h l : Byte) : hi (join h l) = h := by
  have := l.isLt
  apply BitVec.eq_of_toNat_eq
  rw [hi_toNat, join_toNat]
  omega

@[simp] theorem lo_join (h l : Byte) : lo (join h l) = l := by
  have := l.isLt
  apply BitVec.eq_of_toNat_eq
  rw [lo_toNat, join_toNat]
  omega

@[simp] theorem join_hi_lo (w : Word) : join (hi w) (lo w) = w := by
  apply BitVec.eq_of_toNat_eq
  rw [join_toNat, hi_toNat, lo_toNat]
  omega

/-! ### Decoding -/

/-- `build` makes an instruction of the operation it is given. -/
@[simp] theorem op_build (op : Op) (o : Byte) (m : Mode) (b : Byte) (w : Word) :
    (build op o m b w).op = op := by
  cases op <;> rfl

@[simp] theorem op_ofBytes (o b1 b2 : Byte) : (ofBytes o b1 b2).op = (entry o).op := op_build ..

/-- Operand assembly keeps the format (R81). -/
@[simp] theorem format_mode (f : Format) (b1 b2 : Byte) : (f.mode b1 b2).format = f := by
  cases f <;> rfl

/-- A mode's operand bytes are the ones it was assembled from (R83). -/
theorem bytes_mode (f : Format) (b1 b2 : Byte) :
    (f.mode b1 b2).bytes = [b1, b2].take f.operandBytes := by
  cases f <;> simp [Format.mode, Mode.bytes, Format.operandBytes]

/-- A format has at most two operand bytes (R81). -/
theorem operandBytes_le (f : Format) : f.operandBytes ≤ 2 := by
  cases f <;> decide

/-- Every instruction but a trap is looked up by its operation and format. -/
theorem opcode?_eq_lookup {i : Instr} (h : i.op ≠ .trap) :
    i.opcode? = (opcodesOf i.op).lookup i.mode.format := by
  cases i <;> first | rfl | exact absurd rfl h

/-- Every instruction but a trap is well formed when its operation has its format. -/
theorem wf_eq_contains {i : Instr} (h : i.op ≠ .trap) :
    i.wf = (formats i.op).contains i.mode.format := by
  cases i <;> first | rfl | exact absurd rfl h

/-- The encoding of an instruction whose opcode is known. -/
theorem encode_of_opcode {i : Instr} {o : Byte} (h : i.opcode? = some o) :
    encode i = o :: i.mode.bytes := by
  simp only [encode, h]


end Sys2Proof
end

