-- ==== Sys2Proof/Laws/Operands.lean ====
section
/-! SUPPORT. What the addressing-mode routines, the operand fetch and the instruction shapes leave
alone, and that they do not look at the countdown (41_addressing_modes.md R120,
40_step_and_dispatch.md R105). -/

namespace Sys2Proof.Machine

/-! ### The mode routine keeps everything but the transients and the bus trace -/

@[simp] theorem resolve_a (m : Mode) (s : State) : (resolve m s).1.a = s.a := by
  cases m <;> rfl
@[simp] theorem resolve_x (m : Mode) (s : State) : (resolve m s).1.x = s.x := by
  cases m <;> rfl
@[simp] theorem resolve_y (m : Mode) (s : State) : (resolve m s).1.y = s.y := by
  cases m <;> rfl
@[simp] theorem resolve_sp (m : Mode) (s : State) : (resolve m s).1.sp = s.sp := by
  cases m <;> rfl
@[simp] theorem resolve_pc (m : Mode) (s : State) : (resolve m s).1.pc = s.pc := by
  cases m <;> rfl
@[simp] theorem resolve_p (m : Mode) (s : State) : (resolve m s).1.p = s.p := by
  cases m <;> rfl
@[simp] theorem resolve_cycles (m : Mode) (s : State) : (resolve m s).1.cycles = s.cycles := by
  cases m <;> rfl
@[simp] theorem resolve_totalCycles (m : Mode) (s : State) : (resolve m s).1.totalCycles = s.totalCycles := by
  cases m <;> rfl
@[simp] theorem resolve_opcode (m : Mode) (s : State) : (resolve m s).1.opcode = s.opcode := by
  cases m <;> rfl
@[simp] theorem resolve_temp (m : Mode) (s : State) : (resolve m s).1.temp = s.temp := by
  cases m <;> rfl
@[simp] theorem resolve_mem (m : Mode) (s : State) : (resolve m s).1.mem = s.mem := by
  cases m <;> rfl
@[simp] theorem resolve_hostCalls (m : Mode) (s : State) : (resolve m s).1.hostCalls = s.hostCalls := by
  cases m <;> rfl
@[simp] theorem resolve_hasReset (m : Mode) (s : State) : (resolve m s).1.hasReset = s.hasReset := by
  cases m <;> rfl
@[simp] theorem resolve_platform (m : Mode) (s : State) : (resolve m s).1.platform = s.platform := by
  cases m <;> rfl

/-! ### `Operand()` keeps everything but `fetched` and the bus trace -/

@[simp] theorem operand_a (m : Mode) (s : State) : (operand m s).2.a = s.a := by
  cases m <;> rfl
@[simp] theorem operand_x (m : Mode) (s : State) : (operand m s).2.x = s.x := by
  cases m <;> rfl
@[simp] theorem operand_y (m : Mode) (s : State) : (operand m s).2.y = s.y := by
  cases m <;> rfl
@[simp] theorem operand_sp (m : Mode) (s : State) : (operand m s).2.sp = s.sp := by
  cases m <;> rfl
@[simp] theorem operand_pc (m : Mode) (s : State) : (operand m s).2.pc = s.pc := by
  cases m <;> rfl
@[simp] theorem operand_p (m : Mode) (s : State) : (operand m s).2.p = s.p := by
  cases m <;> rfl
@[simp] theorem operand_cycles (m : Mode) (s : State) : (operand m s).2.cycles = s.cycles := by
  cases m <;> rfl
@[simp] theorem operand_totalCycles (m : Mode) (s : State) : (operand m s).2.totalCycles = s.totalCycles := by
  cases m <;> rfl
@[simp] theorem operand_opcode (m : Mode) (s : State) : (operand m s).2.opcode = s.opcode := by
  cases m <;> rfl
@[simp] theorem operand_temp (m : Mode) (s : State) : (operand m s).2.temp = s.temp := by
  cases m <;> rfl
@[simp] theorem operand_addrAbs (m : Mode) (s : State) : (operand m s).2.addrAbs = s.addrAbs := by
  cases m <;> rfl
@[simp] theorem operand_addrRel (m : Mode) (s : State) : (operand m s).2.addrRel = s.addrRel := by
  cases m <;> rfl
@[simp] theorem operand_mem (m : Mode) (s : State) : (operand m s).2.mem = s.mem := by
  cases m <;> rfl
@[simp] theorem operand_hostCalls (m : Mode) (s : State) : (operand m s).2.hostCalls = s.hostCalls := by
  cases m <;> rfl
@[simp] theorem operand_hasReset (m : Mode) (s : State) : (operand m s).2.hasReset = s.hasReset := by
  cases m <;> rfl
@[simp] theorem operand_platform (m : Mode) (s : State) : (operand m s).2.platform = s.platform := by
  cases m <;> rfl

/-- `Operand()` stages the byte it returns (40_step_and_dispatch.md R105). -/
@[simp] theorem operand_fetched (m : Mode) (s : State) : (operand m s).2.fetched = (operand m s).1 := by
  cases m <;> rfl

/-! ### The base cost is no part of what a mode computes -/

theorem resolve_startCycles (m : Mode) (s : State) (n : Nat) :
    resolve m (s.startCycles n) = ((resolve m s).1.startCycles n, (resolve m s).2) := by
  cases m <;> rfl

theorem operand_startCycles (m : Mode) (s : State) (n : Nat) :
    operand m (s.startCycles n) = ((operand m s).1, (operand m s).2.startCycles n) := by
  cases m <;> rfl

/-- An instruction that reads its operand, in terms of the operand of the state before it: the one
lemma about `State.reading`. -/
theorem reading_eq (s : State) (base : Nat) (signal : Bool) (m : Mode) (use : State → Byte → State) :
    s.reading base signal m use =
      (use ((operand m (resolve m s).1).2.startCycles base) (operandByte m s)).penalty
        (signal && (resolve m s).2) := by
  simp only [State.reading, State.address, resolve_startCycles, operand_startCycles, operandByte]

/-- A store, in terms of the address of the state before it: the one lemma about `State.storing`. -/
theorem storing_eq (s : State) (m : Mode) (v : Byte) :
    s.storing m v = ((resolve m s).1.startCycles (storeCycles m)).memWrite (operandAddr m s) v := by
  simp only [State.storing, State.address, resolve_startCycles, startCycles_addrAbs, operandAddr]

/-- An Implied instruction stages the accumulator and loads its cost: the one lemma about
`State.implied`. -/
theorem implied_eq (s : State) (base : Nat) (op : State → State) :
    s.implied base op = op { s with fetched := s.a, cycles := base } := rfl

/-! ### Shifts -/

/-- The accumulator form writes the register. -/
theorem writeBack_imp (s : State) (v : Byte) : writeBack .imp s v = { s with a := v } := rfl

/-- Every other form writes the bus at `addr_abs`. -/
theorem writeBack_mem {m : Mode} (h : m ≠ .imp) (s : State) (v : Byte) :
    writeBack m s v = s.memWrite s.addrAbs v := by
  cases m <;> first | rfl | exact absurd rfl h

/-! ### Branches -/

/-- A branch not taken: only the cost and the displacement (45_branch_jump.md R191). -/
theorem branch_not_taken (s : State) (b : Byte) :
    s.branch false b = { s with cycles := 2, addrRel := sext16 b } := rfl

/-- A branch taken: the target, in `pc` and `addr_abs`, and its cost (45_branch_jump.md R191). -/
theorem branch_taken (s : State) (b : Byte) :
    s.branch true b =
      { s with
        cycles := 2 + 1 + (hi (s.pc + sext16 b) != hi s.pc).toNat
        addrRel := sext16 b
        addrAbs := s.pc + sext16 b
        pc := s.pc + sext16 b } := rfl

end Sys2Proof.Machine
end

