-- ==== Sys2Proof/Laws/Flags.lean ====
section
/-! SUPPORT. The laws of the flags of `P` (10_state.md R26, R35). -/

namespace Sys2Proof.Machine

theorem Flag.bit_lt (f : Flag) : f.bit < 8 := by cases f <;> decide

theorem Flag.bit_inj {f g : Flag} (h : f.bit = g.bit) : f = g := by
  cases f <;> cases g <;> first | rfl | exact absurd h (by decide)

/-- Writing one flag and reading another: flags are independent (R35). -/
@[simp] theorem getFlag_setFlag (p : Byte) (f g : Flag) (v : Bool) :
    getFlag (setFlag p f v) g = if g = f then v else getFlag p g := by
  have hbit : g.bit = f.bit ↔ g = f := ⟨fun h => Flag.bit_inj h, fun h => by rw [h]⟩
  cases v <;> by_cases h : g = f <;>
    simp [getFlag, setFlag, Flag.mask, hbit, h, Flag.bit_lt]

/-- A status byte is its flags. -/
theorem status_ext {p q : Byte} (h : ∀ f, getFlag p f = getFlag q f) : p = q := by
  apply BitVec.eq_of_getLsbD_eq
  intro k hk
  have : ∃ f : Flag, f.bit = k := by
    match k, hk with
    | 0, _ => exact ⟨.c, rfl⟩
    | 1, _ => exact ⟨.z, rfl⟩
    | 2, _ => exact ⟨.i, rfl⟩
    | 3, _ => exact ⟨.d, rfl⟩
    | 4, _ => exact ⟨.b, rfl⟩
    | 5, _ => exact ⟨.u, rfl⟩
    | 6, _ => exact ⟨.v, rfl⟩
    | 7, _ => exact ⟨.n, rfl⟩
  obtain ⟨f, rfl⟩ := this
  exact h f

/-- What `SetZN` does to each flag (40_step_and_dispatch.md R107). -/
@[simp] theorem getFlag_znFlags (p v : Byte) (g : Flag) :
    getFlag (znFlags p v) g = if g = .n then v.msb else if g = .z then v == 0 else getFlag p g := by
  simp only [znFlags, getFlag_setFlag]

@[simp] theorem flag_withFlag (s : State) (f g : Flag) (v : Bool) :
    (s.withFlag f v).flag g = if g = f then v else s.flag g := getFlag_setFlag s.p f g v

@[simp] theorem flag_setZN (s : State) (v : Byte) (g : Flag) :
    (s.setZN v).flag g = if g = .n then v.msb else if g = .z then v == 0 else s.flag g :=
  getFlag_znFlags s.p v g

/-- Which flags a popped status byte sets (46_stack_flags_system.md R211). -/
@[simp] theorem getFlag_poppedStatus (p v : Byte) (g : Flag) :
    getFlag (poppedStatus p v) g = if g = .u then true else if g = .b then getFlag p .b else getFlag v g := by
  cases g <;> simp [getFlag, poppedStatus, Flag.bit]

/-- Which flags the pushed status byte has (46_stack_flags_system.md R211). -/
@[simp] theorem getFlag_pushedStatus (p : Byte) (b : Bool) (g : Flag) :
    getFlag (pushedStatus p b) g = if g = .u then true else if g = .b then b else getFlag p g := by
  cases b <;> cases g <;> simp [getFlag, pushedStatus, Flag.bit]

/-- Equal status bytes have equal flags. -/
theorem flag_congr {s t : State} (h : t.p = s.p) (f : Flag) : t.flag f = s.flag f := by
  rw [State.flag, State.flag, h]

@[simp] theorem flag_penalty (s : State) (b : Bool) (f : Flag) : (s.penalty b).flag f = s.flag f := rfl
@[simp] theorem flag_startCycles (s : State) (n : Nat) (f : Flag) : (s.startCycles n).flag f = s.flag f := rfl
@[simp] theorem flag_memWrite (s : State) (a : Word) (v : Byte) (f : Flag) :
    (s.memWrite a v).flag f = s.flag f := rfl

/-! ### Flag computations as arithmetic -/

theorem isZero_eq (v : Byte) : (v == 0) = decide (v.toNat = 0) := by
  rw [Bool.eq_iff_iff, beq_iff_eq, decide_eq_true_eq, ← BitVec.toNat_inj]
  rfl

theorem msb_eq (v : Byte) : v.msb = decide (128 ≤ v.toNat) := by
  rw [BitVec.msb_eq_decide]

theorem bit7_eq (v : Byte) : v.getLsbD 7 = decide (128 ≤ v.toNat) := by
  rw [← msb_eq, BitVec.msb_eq_getLsbD_last]

/-- `SetZN` sets Z and N as `ZNOf` says, and no other flag: whatever else the instruction does. -/
theorem znOf_of_p {v : Byte} {s t : State} (h : t.p = znFlags s.p v) :
    ZNOf v t ∧ FlagsKeptOutside [.z, .n] s t := by
  refine ⟨⟨?_, ?_⟩, fun f hf => ?_⟩
  · rw [State.flag, h, getFlag_znFlags, if_neg (by decide), if_pos rfl, isZero_eq]
  · rw [State.flag, h, getFlag_znFlags, if_pos rfl, msb_eq]
  · simp only [List.mem_cons, List.not_mem_nil, or_false, not_or] at hf
    rw [State.flag, h, getFlag_znFlags, if_neg hf.2, if_neg hf.1, State.flag]

/-- The intermediate of an add is the whole sum (43_arithmetic_logic.md R161). -/
theorem addTemp_toNat (a m : Byte) (c : Bool) :
    (addTemp a m c).toNat = a.toNat + m.toNat + c.toNat := by
  have := a.isLt
  have := m.isLt
  cases c <;> simp [addTemp, zext16_toNat] <;> omega

/-- Its bit 8 is the unsigned overflow. -/
theorem addTemp_carry (a m : Byte) (c : Bool) :
    (addTemp a m c).getLsbD 8 = decide (255 < a.toNat + m.toNat + c.toNat) := by
  have := a.isLt
  have := m.isLt
  have : c.toNat ≤ 1 := by cases c <;> decide
  rw [BitVec.getLsbD, addTemp_toNat, Nat.testBit_eq_decide_div_mod_eq]
  apply decide_eq_decide.mpr
  omega

end Sys2Proof.Machine
end

