-- ==== Sys2Proof/Laws/Memory.lean ====
section
/-! SUPPORT. The laws of plain memory: read after write, other addresses kept, the canonical form kept
by every operation (20_memory.md R63). -/

namespace Sys2Proof.Machine

theorem byteAt_erase_ne (m : Memory) {a b : Nat} (h : a ≠ b) :
    (m.erase a).byteAt b = m.byteAt b := by
  induction m with
  | nil => rfl
  | cons c rest ih =>
    obtain ⟨k, v⟩ := c
    by_cases hk : k = a
    · subst hk; simp [Memory.erase, Memory.byteAt, h, ih]
    · rw [Memory.erase, if_neg hk, Memory.byteAt, Memory.byteAt, ih]

theorem byteAt_erase_same (m : Memory) (a : Nat) : (m.erase a).byteAt a = Config.memoryFill := by
  induction m with
  | nil => rfl
  | cons c rest ih =>
    obtain ⟨k, v⟩ := c
    by_cases hk : k = a <;> simp [Memory.erase, Memory.byteAt, hk, ih]

theorem byteAt_insert_ne (m : Memory) {a b : Nat} (v : Byte) (h : a ≠ b) :
    (m.insert a v).byteAt b = m.byteAt b := by
  induction m with
  | nil => simp [Memory.insert, Memory.byteAt, h]
  | cons c rest ih =>
    obtain ⟨k, w⟩ := c
    by_cases hk : a < k
    · simp [Memory.insert, Memory.byteAt, hk, h]
    · rw [Memory.insert, if_neg hk, Memory.byteAt, Memory.byteAt, ih]

/-- An address the memory does not list. -/
theorem byteAt_insert_erase (m : Memory) (a : Nat) (v : Byte) :
    ((m.erase a).insert a v).byteAt a = v := by
  induction m with
  | nil => simp [Memory.erase, Memory.insert, Memory.byteAt]
  | cons c rest ih =>
    obtain ⟨k, w⟩ := c
    by_cases hk : k = a
    · simpa [Memory.erase, hk] using ih
    · by_cases hlt : a < k
      · simp [Memory.erase, Memory.insert, Memory.byteAt, hk, hlt]
      · simpa [Memory.erase, Memory.insert, Memory.byteAt, hk, hlt] using ih

/-- Reading back the byte just written. -/
@[simp] theorem byteAt_write_same (m : Memory) (a : Nat) (v : Byte) : (m.write a v).byteAt a = v := by
  unfold Memory.write
  split
  · next h => rw [byteAt_erase_same, h]
  · exact byteAt_insert_erase m a v

/-- A write leaves every other address alone. -/
theorem byteAt_write_ne (m : Memory) {a b : Nat} (v : Byte) (h : a ≠ b) :
    (m.write a v).byteAt b = m.byteAt b := by
  unfold Memory.write
  split
  · exact byteAt_erase_ne m h
  · rw [byteAt_insert_ne _ _ h, byteAt_erase_ne m h]

/-- Both laws in one. -/
theorem byteAt_write (m : Memory) (a b : Nat) (v : Byte) :
    (m.write a v).byteAt b = if a = b then v else m.byteAt b := by
  split
  · next h => rw [← h, byteAt_write_same]
  · next h => exact byteAt_write_ne m v h

/-! ### The canonical form -/

theorem wfFrom_mono {low low' : Nat} (h : low' ≤ low) {m : Memory} (hm : Memory.wfFrom low m = true) :
    Memory.wfFrom low' m = true := by
  cases m with
  | nil => rfl
  | cons c rest =>
    simp only [Memory.wfFrom, Bool.and_eq_true, decide_eq_true_eq] at hm ⊢
    exact ⟨⟨⟨Nat.le_trans h hm.1.1.1, hm.1.1.2⟩, hm.1.2⟩, hm.2⟩

theorem erase_wfFrom (m : Memory) (a low : Nat) (h : Memory.wfFrom low m = true) :
    Memory.wfFrom low (m.erase a) = true := by
  induction m generalizing low with
  | nil => rfl
  | cons c rest ih =>
    obtain ⟨k, v⟩ := c
    simp only [Memory.wfFrom, Bool.and_eq_true, decide_eq_true_eq] at h
    by_cases hk : k = a
    · simpa [Memory.erase, hk] using ih low (wfFrom_mono (by omega) h.2)
    · simp only [Memory.erase, hk, if_false, Memory.wfFrom, Bool.and_eq_true, decide_eq_true_eq]
      exact ⟨h.1, ih _ h.2⟩

theorem insert_erase_wfFrom (m : Memory) (a low : Nat) (v : Byte) (hv : v ≠ Config.memoryFill)
    (hlow : low ≤ a) (ha : a < 65536) (h : Memory.wfFrom low m = true) :
    Memory.wfFrom low ((m.erase a).insert a v) = true := by
  induction m generalizing low with
  | nil => simp [Memory.erase, Memory.insert, Memory.wfFrom, hlow, ha, hv]
  | cons c rest ih =>
    obtain ⟨k, w⟩ := c
    simp only [Memory.wfFrom, Bool.and_eq_true, decide_eq_true_eq] at h
    by_cases hk : k = a
    · simpa [Memory.erase, hk] using ih low hlow (wfFrom_mono (by omega) h.2)
    · by_cases hlt : a < k
      · simp only [Memory.erase, hk, if_false, Memory.insert, hlt, if_true, Memory.wfFrom,
          Bool.and_eq_true, decide_eq_true_eq]
        exact ⟨⟨⟨hlow, ha⟩, hv⟩, ⟨⟨by omega, h.1.1.2⟩, h.1.2⟩, erase_wfFrom _ _ _ h.2⟩
      · simp only [Memory.erase, hk, if_false, Memory.insert, hlt, Memory.wfFrom,
          Bool.and_eq_true, decide_eq_true_eq]
        exact ⟨h.1, ih _ (by omega) h.2⟩

/-- A write at a bus address keeps the canonical form. -/
theorem write_wf {m : Memory} {a : Nat} (v : Byte) (ha : a < 65536) (h : m.wf = true) :
    (m.write a v).wf = true := by
  unfold Memory.write
  split
  · exact erase_wfFrom m a 0 h
  · next hv => exact insert_erase_wfFrom m a 0 v hv (Nat.zero_le a) ha h

/-- A bus write keeps the canonical form, whatever device takes it. -/
theorem memWrite_wf (s : State) (a : Word) (v : Byte) (h : s.mem.wf = true) :
    (s.memWrite a v).mem.wf = true := by
  unfold State.memWrite
  dsimp only
  split
  · exact write_wf v a.isLt h
  · exact h

/-- A push keeps the canonical form. -/
theorem push_wf (s : State) (v : Byte) (h : s.mem.wf = true) : (s.push v).mem.wf = true :=
  memWrite_wf s _ v h

/-- Placing bytes from outside keeps the canonical form. -/
theorem placeBytes_wf (s : State) (a : Word) (bytes : List Byte) (h : s.mem.wf = true) :
    (s.placeBytes a bytes).mem.wf = true := by
  induction bytes generalizing s a with
  | nil => exact h
  | cons v rest ih => exact ih _ _ (write_wf v a.isLt h)

/-- Memory right after reset is in canonical form. -/
theorem reset_mem_wf : State.reset.mem.wf = true := rfl

end Sys2Proof.Machine
end

