-- ==== Sys2Proof/Laws/Ops.lean ====
section
/-! SUPPORT. What the shared operations over the bus, the stack and the control state do
(20_memory.md R52 to R63, 46_stack_flags_system.md R211, 60_exceptions.md R242 to R250). -/

namespace Sys2Proof.Machine

/-! ### Devices -/

theorem plainAt_of_ramAt {p : Platform} {a : Word} (h : ramAt p a = true) : plainAt p a = true := by
  unfold ramAt at h
  unfold plainAt
  split <;> simp_all

/-- A read of plain or read-only memory gives the byte it holds (R63). -/
theorem readValue_plain {s : State} {a : Word} (h : plainAt s.platform a = true) :
    s.readValue a = s.mem.byteAt a.toNat := by
  unfold plainAt at h
  unfold State.readValue
  split at h
  · next d hd =>
    rw [hd]
    cases hk : d.kind <;> simp_all
  · exact absurd h (by decide)

/-- A read of an address no device claims gives 0x00 (R53). -/
theorem readValue_unmapped {s : State} {a : Word} (h : deviceAt s.platform a = none) :
    s.readValue a = 0x00 := by
  simp [State.readValue, h]

/-- A read depends on the platform, memory and the bus trace alone. -/
theorem readValue_congr {s t : State} (a : Word) (hp : t.platform = s.platform) (hm : t.mem = s.mem)
    (hb : t.bus = s.bus) : t.readValue a = s.readValue a := by
  simp [State.readValue, hp, hm, hb]

/-- On the test platform every address is plain memory. -/
theorem ramAt_testPlatform (a : Word) : ramAt Config.testPlatform a = true := by
  have h : deviceCovers ⟨0x0000, 0xFFFF, .ram⟩ a = true := by
    have h1 : (0x0000 : Word) ≤ a := by bv_omega
    have h2 : a ≤ (0xFFFF : Word) := by bv_omega
    simp only [deviceCovers, h1, h2, decide_true, Bool.and_self]
  simp only [ramAt, deviceAt, Config.testPlatform, List.find?, h]
  rfl

/-! ### The stack -/

/-- Stack locations are in the stack page (10_state.md R24). -/
theorem stackAddr_toNat (sp : Byte) : (stackAddr sp).toNat = 256 + sp.toNat := by
  have := sp.isLt
  have hpage : (0x0100 : Word).toNat = 256 := rfl
  rw [stackAddr, BitVec.toNat_add, zext16_toNat, hpage]
  omega

@[simp] theorem stackAddr_inj (p q : Byte) : stackAddr p = stackAddr q ↔ p = q := by
  constructor
  · intro h
    have h' := congrArg BitVec.toNat h
    rw [stackAddr_toNat, stackAddr_toNat] at h'
    exact BitVec.eq_of_toNat_eq (by omega)
  · rintro rfl; rfl

/-! ### The shared operations, once -/

/-- `Read16`: the two reads, low byte first (R58). -/
theorem read16_eq (s : State) (aLo aHi : Word) :
    s.read16 aLo aHi =
      (join ((s.memRead aLo).2.readValue aHi) (s.readValue aLo), ((s.memRead aLo).2.memRead aHi).2) := rfl

/-- Stack pointers one, two and three pushes down. -/
theorem sub_one_sub_one (p : Byte) : p - 1 - 1 = p - 2 := by bv_omega

theorem sub_two_sub_one (p : Byte) : p - 2 - 1 = p - 3 := by bv_omega

/-- The transactions of an interrupt entry's three pushes, newest first. -/
def entryPushes (s : State) (b : Bool) : List BusOp :=
  [.write (stackAddr (s.sp - 2)) (pushedStatus s.p b), .write (stackAddr (s.sp - 1)) (lo s.pc),
    .write (stackAddr s.sp) (hi s.pc)]

/-- The bus and memory once the three bytes are pushed: all that the vector reads see. -/
def entryPushed (s : State) (b : Bool) : State :=
  { s with mem := replay s.platform (entryPushes s b) s.mem, bus := entryPushes s b ++ s.bus }

/-- The three pushes leave their bytes where the stack pointer said, and it three lower. -/
theorem pushes_eq (s : State) (b : Bool) :
    (s.pushWord s.pc).pushP b = { entryPushed s b with sp := s.sp - 3 } := by
  have h2 := sub_one_sub_one s.sp
  have h3 := sub_two_sub_one s.sp
  simp only [entryPushed, entryPushes, State.pushWord, State.pushP, State.push, State.memWrite, h2, h3]
  rfl

/-- All an interrupt entry does besides what the field lemmas of Laws/State.lean say: memory is the
replay of the pushes (R242, R243, 46_stack_flags_system.md R224). -/
theorem enterInterrupt_mem (s : State) (b : Bool) (vector : Word) :
    (s.enterInterrupt b vector).mem = replay s.platform (entryPushes s b) s.mem := by
  simp only [State.enterInterrupt, pushes_eq, read16_mem, withFlag_mem, entryPushed]

/-- And the bus trace: the pushes, then the vector, low byte first. -/
theorem enterInterrupt_bus (s : State) (b : Bool) (vector : Word) :
    (s.enterInterrupt b vector).bus =
      .read (vector + 1) (((entryPushed s b).memRead vector).2.readValue (vector + 1)) ::
      .read vector ((entryPushed s b).readValue vector) :: (entryPushes s b ++ s.bus) := by
  simp only [State.enterInterrupt, pushes_eq]
  rfl

/-- And where it goes. -/
theorem enterInterrupt_pc (s : State) (b : Bool) (vector : Word) :
    (s.enterInterrupt b vector).pc =
      join (((entryPushed s b).memRead vector).2.readValue (vector + 1)) ((entryPushed s b).readValue vector) := by
  simp only [State.enterInterrupt, pushes_eq]
  rfl

/-- The interrupt entry keeps memory in canonical form. -/
theorem enterInterrupt_wf (s : State) (b : Bool) (vector : Word) (h : s.mem.wf = true) :
    (s.enterInterrupt b vector).mem.wf = true :=
  push_wf _ _ (push_wf _ _ (push_wf _ _ h))

/-! ### Stored bytes -/

/-- One bus write stores its byte. -/
theorem stored_one {a : Word} {v : Byte} {s t : State}
    (h : t.mem = replay s.platform [.write a v] s.mem) : Stored [(a, v)] s t := by
  refine ⟨?_, fun b hb => ?_⟩
  · simp only [List.mem_singleton, forall_eq]
    rw [h]
    simp only [replay, List.foldr, replayOp]
    split <;> simp
  · simp only [List.map_cons, List.map_nil, List.mem_singleton] at hb
    have hne : a.toNat ≠ b.toNat := fun h => hb (BitVec.eq_of_toNat_eq h).symm
    rw [h]
    simp only [replay, List.foldr, replayOp]
    split
    · exact byteAt_write_ne _ _ hne
    · rfl

/-- What memory holds after a run of transactions: the last write to an address that plain memory
covers, else what it held. -/
theorem byteAt_replay_write (p : Platform) (ops : List BusOp) (m : Memory) (a b : Word) (v : Byte) :
    (replay p (.write a v :: ops) m).byteAt b.toNat =
      if a = b ∧ ramAt p a = true then v else (replay p ops m).byteAt b.toNat := by
  show (if ramAt p a then (replay p ops m).write a.toNat v else replay p ops m).byteAt b.toNat = _
  by_cases hr : ramAt p a = true
  · rw [if_pos hr, byteAt_write]
    simp [hr, BitVec.toNat_inj]
  · rw [if_neg hr, if_neg (fun h => hr h.2)]

/-- A replay keeps memory in canonical form. -/
theorem replay_wf (p : Platform) (ops : List BusOp) {m : Memory} (h : m.wf = true) :
    (replay p ops m).wf = true := by
  induction ops with
  | nil => exact h
  | cons op rest ih =>
    cases op with
    | read a v => exact ih
    | write a v =>
      show (if ramAt p a then (replay p rest m).write a.toNat v else replay p rest m : Memory).wf = true
      split
      · exact write_wf v a.isLt ih
      · exact ih

/-- The two pops of a word, from plain memory: the high byte above the low one. -/
theorem popWord_plain {s : State} (hl : plainAt s.platform (stackAddr (s.sp + 1)) = true)
    (hh : plainAt s.platform (stackAddr (s.sp + 2)) = true) :
    s.popWord.1 =
      join (s.mem.byteAt (stackAddr (s.sp + 2)).toNat) (s.mem.byteAt (stackAddr (s.sp + 1)).toNat) := by
  have h2 : s.sp + 1 + 1 = s.sp + 2 := by bv_omega
  simp only [State.popWord, State.pop, State.memRead, h2]
  rw [readValue_plain (by exact hh), readValue_plain (by exact hl)]

/-! ### Runs of bus transactions -/

/-- `t` is `s` after some bus transactions: they are in the trace, and memory is their replay. -/
def Traced (s t : State) : Prop :=
  t.platform = s.platform ∧ ∃ ops, t.bus = ops ++ s.bus ∧ t.mem = replay s.platform ops s.mem

theorem Traced.refl (s : State) : Traced s s := ⟨rfl, [], rfl, rfl⟩

/-- Only the platform, the bus trace and memory take part. -/
theorem Traced.congr {s t u : State} (h : Traced s t) (hp : u.platform = t.platform)
    (hb : u.bus = t.bus) (hm : u.mem = t.mem) : Traced s u := by
  obtain ⟨h1, ops, h2, h3⟩ := h
  exact ⟨hp.trans h1, ops, hb.trans h2, hm.trans h3⟩

theorem Traced.trans {s t u : State} (h : Traced s t) (h' : Traced t u) : Traced s u := by
  obtain ⟨h1, ops, h2, h3⟩ := h
  obtain ⟨h1', ops', h2', h3'⟩ := h'
  refine ⟨h1'.trans h1, ops' ++ ops, ?_, ?_⟩
  · rw [h2', h2, List.append_assoc]
  · rw [h3', h3, h1, replay, replay, replay, List.foldr_append]

theorem memRead_traced (s : State) (a : Word) : Traced s (s.memRead a).2 :=
  ⟨rfl, [.read a (s.readValue a)], rfl, rfl⟩

theorem memWrite_traced (s : State) (a : Word) (v : Byte) : Traced s (s.memWrite a v) :=
  ⟨rfl, [.write a v], rfl, rfl⟩

end Sys2Proof.Machine
end

