-- ==== Sys2Proof/Machine/EndOfRun.lean ====
section
/-! DEFINITION. The end-of-run convention (70_reset_and_hazards.md R279, 92_eei_decisions.md D27), as the
host observes it: no step uses it. -/

namespace Sys2Proof.Machine

/-- `Read16(a_lo, a_hi)` as the host observes it: no transaction (20_memory.md R54, R58). -/
def State.observe16 (s : State) (aLo aHi : Word) : Word := join (s.observe aHi) (s.observe aLo)

/-- The displacement with which a taken branch goes to its own address (R279). -/
def selfDisplacement : Byte := 0xFE

/-- Whether an instruction at `pc` transfers control to itself (R279): a JMP of either form whose target
is `pc` (45_branch_jump.md R200; the indirect one by way of its pointer, with the page-wrap quirk of
41_addressing_modes.md R130), or a taken branch with displacement 0xFE. -/
def jumpsToSelf (i : Instr) (s : State) : Bool :=
  match i with
  | .jmp (.abs w) => w == s.pc
  | .jmp (.ind w) => s.observe16 w (indirectHigh w) == s.pc
  | .bcc b => b == selfDisplacement && !s.flag .c
  | .bcs b => b == selfDisplacement && s.flag .c
  | .beq b => b == selfDisplacement && s.flag .z
  | .bne b => b == selfDisplacement && !s.flag .z
  | .bmi b => b == selfDisplacement && s.flag .n
  | .bpl b => b == selfDisplacement && !s.flag .n
  | .bvc b => b == selfDisplacement && !s.flag .v
  | .bvs b => b == selfDisplacement && s.flag .v
  | _ => false

/-- A program is finished (R279): the countdown is over and `pc` addresses an instruction that transfers
control to itself. -/
def State.finished (s : State) : Bool :=
  s.cycles == 0 &&
    jumpsToSelf (ofBytes (s.observe s.pc) (s.observe (s.pc + 1)) (s.observe (s.pc + 2))) s

end Sys2Proof.Machine
end

