-- ==== Sys2Proof/Laws/EndOfRun.lean ====
section
/-! SUPPORT. The end-of-run convention says what it means (70_reset_and_hazards.md R279): an instruction
it calls a self-jump does go back to its own address. -/

namespace Sys2Proof.Machine

/-- The host observes in plain memory what a read would give (20_memory.md R54, R63). -/
theorem observe_plain {s : State} {a : Word} (h : plainAt s.platform a = true) :
    s.observe a = s.mem.byteAt a.toNat := by
  unfold plainAt at h
  unfold State.observe
  split at h
  · next d hd =>
    rw [hd]
    cases hk : d.kind <;> simp_all
  · exact absurd h (by decide)

/-- The displacement 0xFE leads from the post-fetch `pc` back to the branch. -/
theorem selfDisplacement_back (pc : Word) : pc + BitVec.ofNat 16 2 + sext16 selfDisplacement = pc := by
  have h : sext16 selfDisplacement = 0xFFFE#16 := by decide
  rw [h]
  bv_omega

/-- The indirect form's effective address, when its two pointer bytes are plain memory
(41_addressing_modes.md R130). -/
theorem resolve_ind_plain {s : State} {w : Word} (hl : plainAt s.platform w = true)
    (hh : plainAt s.platform (indirectHigh w) = true) :
    (resolve (.ind w) s).1.addrAbs =
      join (s.mem.byteAt (indirectHigh w).toNat) (s.mem.byteAt w.toNat) := by
  simp only [resolve, read16_eq]
  rw [readValue_plain hl, readValue_plain (s := (s.memRead w).2) hh, memRead_mem]

/-- In plain memory the host observes the word a read would give. -/
theorem observe16_plain {s : State} {aLo aHi : Word} (hl : plainAt s.platform aLo = true)
    (hh : plainAt s.platform aHi = true) :
    s.observe16 aLo aHi = join (s.mem.byteAt aHi.toNat) (s.mem.byteAt aLo.toNat) := by
  rw [State.observe16, observe_plain hl, observe_plain hh]

/-- A branch taken with displacement 0xFE comes back. -/
theorem branch_self {s : State} {pc : Word} {cond : Bool} {b : Byte} (hpc : s.pc = pc + BitVec.ofNat 16 2)
    (hb : b = selfDisplacement) (hc : cond = true) : (s.branch cond b).pc = pc := by
  subst hb hc
  rw [branch_taken, hpc]
  exact selfDisplacement_back pc

/-- What `jumpsToSelf` calls a self-jump goes back to its own address: after the fetch of its bytes
`exec` answers a next state whose `pc` is where the instruction stands. For the indirect JMP the pointer
is plain memory, so that the read gives what the host observed. -/
theorem jumpsToSelf_sound (i : Instr) (s : State) (h : jumpsToSelf i s = true)
    (hptr : ∀ w, i = .jmp (.ind w) →
      plainAt s.platform w = true ∧ plainAt s.platform (indirectHigh w) = true)
    (u : State) (hu : u = afterFetch (encode i) s) : ∃ t, exec i u = .next t ∧ t.pc = s.pc := by
  have two : ∀ o b : Byte, encode i = [o, b] → u.pc = s.pc + BitVec.ofNat 16 2 := fun o b he => by
    rw [hu, he]
    rfl
  have hflag : ∀ f, u.flag f = s.flag f := fun f => by rw [hu]; rfl
  cases i with
  | jmp m =>
    cases m with
    | abs w => exact ⟨_, rfl, by simpa [jumpsToSelf, State.address, resolve] using h⟩
    | ind w =>
      obtain ⟨hl, hh⟩ := hptr w rfl
      subst hu
      refine ⟨_, rfl, Eq.trans (resolve_ind_plain hl hh) ?_⟩
      rw [← beq_iff_eq.mp h, observe16_plain hl hh]
      rfl
    | _ => exact absurd h (by simp [jumpsToSelf])
  | bcc b =>
    simp only [jumpsToSelf, Bool.and_eq_true, beq_iff_eq] at h
    exact ⟨_, rfl, branch_self (two 0x90 b rfl) h.1 (by rw [hflag]; exact h.2)⟩
  | bcs b =>
    simp only [jumpsToSelf, Bool.and_eq_true, beq_iff_eq] at h
    exact ⟨_, rfl, branch_self (two 0xB0 b rfl) h.1 (by rw [hflag]; exact h.2)⟩
  | beq b =>
    simp only [jumpsToSelf, Bool.and_eq_true, beq_iff_eq] at h
    exact ⟨_, rfl, branch_self (two 0xF0 b rfl) h.1 (by rw [hflag]; exact h.2)⟩
  | bne b =>
    simp only [jumpsToSelf, Bool.and_eq_true, beq_iff_eq] at h
    exact ⟨_, rfl, branch_self (two 0xD0 b rfl) h.1 (by rw [hflag]; exact h.2)⟩
  | bmi b =>
    simp only [jumpsToSelf, Bool.and_eq_true, beq_iff_eq] at h
    exact ⟨_, rfl, branch_self (two 0x30 b rfl) h.1 (by rw [hflag]; exact h.2)⟩
  | bpl b =>
    simp only [jumpsToSelf, Bool.and_eq_true, beq_iff_eq] at h
    exact ⟨_, rfl, branch_self (two 0x10 b rfl) h.1 (by rw [hflag]; exact h.2)⟩
  | bvc b =>
    simp only [jumpsToSelf, Bool.and_eq_true, beq_iff_eq] at h
    exact ⟨_, rfl, branch_self (two 0x50 b rfl) h.1 (by rw [hflag]; exact h.2)⟩
  | bvs b =>
    simp only [jumpsToSelf, Bool.and_eq_true, beq_iff_eq] at h
    exact ⟨_, rfl, branch_self (two 0x70 b rfl) h.1 (by rw [hflag]; exact h.2)⟩
  | _ => exact absurd h (by simp [jumpsToSelf])

end Sys2Proof.Machine
end

