-- ==== Sys2Proof/Laws/PerInstr.lean ====
section
/-! SUPPORT. Facts about every instruction as syntax, one lemma a constructor. -/

namespace Sys2Proof.Laws.OwnEntry

/-- A well-formed instruction has an opcode, and the descriptor table's entry at that opcode has the
instruction's operation and format: the two maps of 30_encoding.md R84 agree on it. -/
def Statement (i : Instr) : Prop :=
  i.wf = true → ∃ opcode, i.opcode? = some opcode ∧ (entry opcode).op = i.op ∧
    (entry opcode).format = i.mode.format

theorem lda (m : Mode) : Statement (.lda m) := by
  cases m <;> intro h <;> first | exact ⟨_, rfl, rfl, rfl⟩ | exact absurd h Bool.false_ne_true

theorem ldx (m : Mode) : Statement (.ldx m) := by
  cases m <;> intro h <;> first | exact ⟨_, rfl, rfl, rfl⟩ | exact absurd h Bool.false_ne_true

theorem ldy (m : Mode) : Statement (.ldy m) := by
  cases m <;> intro h <;> first | exact ⟨_, rfl, rfl, rfl⟩ | exact absurd h Bool.false_ne_true

theorem sta (m : Mode) : Statement (.sta m) := by
  cases m <;> intro h <;> first | exact ⟨_, rfl, rfl, rfl⟩ | exact absurd h Bool.false_ne_true

theorem stx (m : Mode) : Statement (.stx m) := by
  cases m <;> intro h <;> first | exact ⟨_, rfl, rfl, rfl⟩ | exact absurd h Bool.false_ne_true

theorem sty (m : Mode) : Statement (.sty m) := by
  cases m <;> intro h <;> first | exact ⟨_, rfl, rfl, rfl⟩ | exact absurd h Bool.false_ne_true

theorem tax : Statement .tax := fun _ => ⟨_, rfl, rfl, rfl⟩

theorem tay : Statement .tay := fun _ => ⟨_, rfl, rfl, rfl⟩

theorem tsx : Statement .tsx := fun _ => ⟨_, rfl, rfl, rfl⟩

theorem txa : Statement .txa := fun _ => ⟨_, rfl, rfl, rfl⟩

theorem txs : Statement .txs := fun _ => ⟨_, rfl, rfl, rfl⟩

theorem tya : Statement .tya := fun _ => ⟨_, rfl, rfl, rfl⟩

theorem adc (m : Mode) : Statement (.adc m) := by
  cases m <;> intro h <;> first | exact ⟨_, rfl, rfl, rfl⟩ | exact absurd h Bool.false_ne_true

theorem sbc (m : Mode) : Statement (.sbc m) := by
  cases m <;> intro h <;> first | exact ⟨_, rfl, rfl, rfl⟩ | exact absurd h Bool.false_ne_true

theorem and (m : Mode) : Statement (.and m) := by
  cases m <;> intro h <;> first | exact ⟨_, rfl, rfl, rfl⟩ | exact absurd h Bool.false_ne_true

theorem ora (m : Mode) : Statement (.ora m) := by
  cases m <;> intro h <;> first | exact ⟨_, rfl, rfl, rfl⟩ | exact absurd h Bool.false_ne_true

theorem eor (m : Mode) : Statement (.eor m) := by
  cases m <;> intro h <;> first | exact ⟨_, rfl, rfl, rfl⟩ | exact absurd h Bool.false_ne_true

theorem bit (m : Mode) : Statement (.bit m) := by
  cases m <;> intro h <;> first | exact ⟨_, rfl, rfl, rfl⟩ | exact absurd h Bool.false_ne_true

theorem cmp (m : Mode) : Statement (.cmp m) := by
  cases m <;> intro h <;> first | exact ⟨_, rfl, rfl, rfl⟩ | exact absurd h Bool.false_ne_true

theorem cpx (m : Mode) : Statement (.cpx m) := by
  cases m <;> intro h <;> first | exact ⟨_, rfl, rfl, rfl⟩ | exact absurd h Bool.false_ne_true

theorem cpy (m : Mode) : Statement (.cpy m) := by
  cases m <;> intro h <;> first | exact ⟨_, rfl, rfl, rfl⟩ | exact absurd h Bool.false_ne_true

theorem inc (m : Mode) : Statement (.inc m) := by
  cases m <;> intro h <;> first | exact ⟨_, rfl, rfl, rfl⟩ | exact absurd h Bool.false_ne_true

theorem dec (m : Mode) : Statement (.dec m) := by
  cases m <;> intro h <;> first | exact ⟨_, rfl, rfl, rfl⟩ | exact absurd h Bool.false_ne_true

theorem inx : Statement .inx := fun _ => ⟨_, rfl, rfl, rfl⟩

theorem iny : Statement .iny := fun _ => ⟨_, rfl, rfl, rfl⟩

theorem dex : Statement .dex := fun _ => ⟨_, rfl, rfl, rfl⟩

theorem dey : Statement .dey := fun _ => ⟨_, rfl, rfl, rfl⟩

theorem asl (m : Mode) : Statement (.asl m) := by
  cases m <;> intro h <;> first | exact ⟨_, rfl, rfl, rfl⟩ | exact absurd h Bool.false_ne_true

theorem lsr (m : Mode) : Statement (.lsr m) := by
  cases m <;> intro h <;> first | exact ⟨_, rfl, rfl, rfl⟩ | exact absurd h Bool.false_ne_true

theorem rol (m : Mode) : Statement (.rol m) := by
  cases m <;> intro h <;> first | exact ⟨_, rfl, rfl, rfl⟩ | exact absurd h Bool.false_ne_true

theorem ror (m : Mode) : Statement (.ror m) := by
  cases m <;> intro h <;> first | exact ⟨_, rfl, rfl, rfl⟩ | exact absurd h Bool.false_ne_true

theorem bcc (b : Byte) : Statement (.bcc b) := fun _ => ⟨_, rfl, rfl, rfl⟩

theorem bcs (b : Byte) : Statement (.bcs b) := fun _ => ⟨_, rfl, rfl, rfl⟩

theorem beq (b : Byte) : Statement (.beq b) := fun _ => ⟨_, rfl, rfl, rfl⟩

theorem bne (b : Byte) : Statement (.bne b) := fun _ => ⟨_, rfl, rfl, rfl⟩

theorem bmi (b : Byte) : Statement (.bmi b) := fun _ => ⟨_, rfl, rfl, rfl⟩

theorem bpl (b : Byte) : Statement (.bpl b) := fun _ => ⟨_, rfl, rfl, rfl⟩

theorem bvc (b : Byte) : Statement (.bvc b) := fun _ => ⟨_, rfl, rfl, rfl⟩

theorem bvs (b : Byte) : Statement (.bvs b) := fun _ => ⟨_, rfl, rfl, rfl⟩

theorem jmp (m : Mode) : Statement (.jmp m) := by
  cases m <;> intro h <;> first | exact ⟨_, rfl, rfl, rfl⟩ | exact absurd h Bool.false_ne_true

theorem jsr (w : Word) : Statement (.jsr w) := fun _ => ⟨_, rfl, rfl, rfl⟩

theorem rts : Statement .rts := fun _ => ⟨_, rfl, rfl, rfl⟩

theorem pha : Statement .pha := fun _ => ⟨_, rfl, rfl, rfl⟩

theorem php : Statement .php := fun _ => ⟨_, rfl, rfl, rfl⟩

theorem pla : Statement .pla := fun _ => ⟨_, rfl, rfl, rfl⟩

theorem plp : Statement .plp := fun _ => ⟨_, rfl, rfl, rfl⟩

theorem clc : Statement .clc := fun _ => ⟨_, rfl, rfl, rfl⟩

theorem cld : Statement .cld := fun _ => ⟨_, rfl, rfl, rfl⟩

theorem cli : Statement .cli := fun _ => ⟨_, rfl, rfl, rfl⟩

theorem clv : Statement .clv := fun _ => ⟨_, rfl, rfl, rfl⟩

theorem sec : Statement .sec := fun _ => ⟨_, rfl, rfl, rfl⟩

theorem sed : Statement .sed := fun _ => ⟨_, rfl, rfl, rfl⟩

theorem sei : Statement .sei := fun _ => ⟨_, rfl, rfl, rfl⟩

theorem nop : Statement .nop := fun _ => ⟨_, rfl, rfl, rfl⟩

theorem brk : Statement .brk := fun _ => ⟨_, rfl, rfl, rfl⟩

theorem rti : Statement .rti := fun _ => ⟨_, rfl, rfl, rfl⟩

theorem sbcEb (b : Byte) : Statement (.sbcEb b) := fun _ => ⟨_, rfl, rfl, rfl⟩

/-- Every trap slot's entry is a trap. -/
theorem slots_are_traps :
    trapSlots.all (fun o => (entry o).op == .trap && (entry o).format == .imp) = true := by decide

theorem trap (opcode : Byte) : Statement (.trap opcode) := by
  intro h
  have hslot : trapSlots.contains opcode = true := h
  have hentry := List.all_eq_true.mp slots_are_traps opcode (List.contains_iff_mem.mp hslot)
  simp only [Bool.and_eq_true, beq_iff_eq] at hentry
  exact ⟨opcode, by simp only [Instr.opcode?, hslot, if_true], hentry.1, hentry.2⟩

end Sys2Proof.Laws.OwnEntry
end

