-- ==== Sys2Proof/Laws/Step.lean ====
section
/-! SUPPORT. What a step and a run do around the event: the host's next call, and one step more
(00_scope.md R12, 40_step_and_dispatch.md R100). -/

namespace Sys2Proof.Machine

/-- Taking the host's next call changes nothing but the calls still to come. -/
theorem nextEvent_eq (s : State) : s.nextEvent.2 = { s with hostCalls := s.hostCalls.tail } := by
  unfold State.nextEvent
  split
  · next h => rw [show s.hostCalls.tail = s.hostCalls by rw [h, List.tail_nil]]
  · next h => rw [h, List.tail_cons]

/-- A step whose event is a `Tick`, after the first `Reset`. -/
theorem step_tick {s : State} (h : s.nextEvent.1 = .tick) (hr : s.hasReset = true) :
    step s = s.nextEvent.2.tick := by
  have hr' : s.nextEvent.2.hasReset = true := by rw [nextEvent_eq]; exact hr
  simp only [step, h, event, hr']

/-- An instruction fetch reads: it keeps everything but `pc`, the opcode and the bus trace
(40_step_and_dispatch.md R101). -/
theorem fetchInstr_keeps (s : State) :
    ∃ pc opcode bus, s.fetchInstr.2 = { s with pc := pc, opcode := opcode, bus := bus } := by
  have next : ∀ u : State, ∃ pc bus, u.nextByte.2 = { u with pc := pc, bus := bus } :=
    fun u => ⟨_, _, rfl⟩
  have first : ∃ pc opcode bus, s.fetchOpcode = { s with pc := pc, opcode := opcode, bus := bus } :=
    ⟨_, _, _, rfl⟩
  unfold State.fetchInstr
  dsimp only
  generalize s.fetchOpcode = q at *
  obtain ⟨pc, opcode, bus, rfl⟩ := first
  split
  · exact ⟨_, _, _, rfl⟩
  · exact ⟨_, _, _, rfl⟩
  · exact ⟨_, _, _, rfl⟩

/-- One step more of a run, on any machine. -/
theorem run_succ (M : Host.Core) (n : Nat) (s : M.State) :
    M.run (n + 1) s =
      match M.step s with
      | .next t => M.run n t
      | .fault r => .fault r
      | .refused r => .refused r := rfl

/-- A run of one step is that step. -/
theorem run_one (M : Host.Core) (s : M.State) : M.run 1 s = M.step s := by
  rw [run_succ]
  cases M.step s <;> rfl

/-- A run whose first `m` steps end in a next state goes on from there. -/
theorem run_add (M : Host.Core) {s t : M.State} (m n : Nat) (h : M.run m s = .next t) :
    M.run (m + n) s = M.run n t := by
  induction m generalizing s with
  | zero =>
    cases h
    rw [Nat.zero_add]
  | succ m ih =>
    rw [run_succ] at h
    rw [Nat.succ_add, Nat.succ_eq_add_one, run_succ]
    cases hs : M.step s with
    | next u => rw [hs] at h; exact ih h
    | fault r => rw [hs] at h; cases h
    | refused r => rw [hs] at h; cases h

/-! The same of this machine's core: with `State` written where `core.State` is meant. -/

/-- A run from a state whose step is known. -/
theorem run_of_step {s t : State} (n : Nat) (h : step s = .next t) :
    Host.Core.run core (n + 1) s = Host.Core.run core n t := by
  have hc : core.step s = .next t := h
  rw [run_succ core n s, hc]

/-- One step of the core is `step`. -/
theorem core_run_one (s : State) : Host.Core.run core 1 s = step s := run_one core s

/-- A run of the core goes on from where its first `m` steps ended. -/
theorem core_run_add {s t : State} (m n : Nat) (h : Host.Core.run core m s = .next t) :
    Host.Core.run core (m + n) s = Host.Core.run core n t := run_add core m n h

end Sys2Proof.Machine
end

