-- ==== Sys2Proof/Tests/Slice0.lean ====
section
/-! SUPPORT. The model's own tests. Expected results are those of spec/95_test_vectors.md (the vector's
name is in the test's docstring) or read off the encoding tables of spec/30_encoding.md; then one
witness for every obligation that has hypotheses. -/

namespace Sys2Proof.Tests
open Sys2Proof Sys2Proof.Machine

/-! ### Well-formedness: each list of forms refuses a form it does not have -/

theorem test_illFormed_aluFormats : Instr.wf (.lda .imp) = false ∧ Instr.wf (.adc (.zpy 0x10)) = false := by decide
theorem test_illFormed_sta : Instr.wf (.sta (.imm 0x01)) = false := by decide
theorem test_illFormed_ldx : Instr.wf (.ldx (.zpx 0x10)) = false := by decide
theorem test_illFormed_ldy : Instr.wf (.ldy (.zpy 0x10)) = false := by decide
theorem test_illFormed_stx : Instr.wf (.stx (.zpx 0x10)) = false ∧ Instr.wf (.stx (.aby 0x1234)) = false := by decide
theorem test_illFormed_sty : Instr.wf (.sty (.zpy 0x10)) = false := by decide
theorem test_illFormed_bit : Instr.wf (.bit (.imm 0x10)) = false := by decide
theorem test_illFormed_cpx : Instr.wf (.cpx (.zpx 0x10)) = false ∧ Instr.wf (.cpy (.abx 0x1234)) = false := by decide
theorem test_illFormed_inc : Instr.wf (.inc .imp) = false ∧ Instr.wf (.dec (.aby 0x1234)) = false := by decide
theorem test_illFormed_shiftFormats : Instr.wf (.asl (.imm 0x01)) = false ∧ Instr.wf (.ror (.izy 0x10)) = false := by decide
theorem test_illFormed_jmp : Instr.wf (.jmp (.zp0 0x10)) = false := by decide
theorem test_illFormed_trap : Instr.wf (.trap 0xA9) = false ∧ Instr.wf (.trap 0xEB) = false := by decide

/-- The forms an instruction has one of are well formed whatever the operand. -/
theorem test_wellFormed : Instr.wf (.lda (.izy 0xFF)) = true ∧ Instr.wf (.stx (.zpy 0x00)) = true ∧
    Instr.wf (.jmp (.ind 0x30FF)) = true ∧ Instr.wf (.trap 0x02) = true ∧ Instr.wf .brk = true := by decide

/-! ### Decoding: every constructor's word, written out from 30_encoding.md R84 (0xEB: R86) -/

theorem test_decode_loads_stores :
    decode [0xA9, 0x80] = .ok (.lda (.imm 0x80), []) ∧
    decode [0xB6, 0xF0] = .ok (.ldx (.zpy 0xF0), []) ∧
    decode [0xBC, 0x00, 0x12] = .ok (.ldy (.abx 0x1200), []) ∧
    decode [0x91, 0x20] = .ok (.sta (.izy 0x20), []) ∧
    decode [0x81, 0x10] = .ok (.sta (.izx 0x10), []) ∧
    decode [0x96, 0x10] = .ok (.stx (.zpy 0x10), []) ∧
    decode [0x8C, 0x34, 0x12] = .ok (.sty (.abs 0x1234), []) := by decide

theorem test_decode_transfers :
    decode [0xAA] = .ok (.tax, []) ∧
    decode [0xA8] = .ok (.tay, []) ∧
    decode [0xBA] = .ok (.tsx, []) ∧
    decode [0x8A] = .ok (.txa, []) ∧
    decode [0x9A] = .ok (.txs, []) ∧
    decode [0x98] = .ok (.tya, []) := by decide

theorem test_decode_arithmetic :
    decode [0x7D, 0xFF, 0x12] = .ok (.adc (.abx 0x12FF), []) ∧
    decode [0xF9, 0x00, 0x20] = .ok (.sbc (.aby 0x2000), []) ∧
    decode [0x29, 0x0F] = .ok (.and (.imm 0x0F), []) ∧
    decode [0x05, 0x10] = .ok (.ora (.zp0 0x10), []) ∧
    decode [0x55, 0x10] = .ok (.eor (.zpx 0x10), []) ∧
    decode [0x2C, 0x34, 0x12] = .ok (.bit (.abs 0x1234), []) ∧
    decode [0xC1, 0x10] = .ok (.cmp (.izx 0x10), []) ∧
    decode [0xE4, 0x10] = .ok (.cpx (.zp0 0x10), []) ∧
    decode [0xC0, 0x80] = .ok (.cpy (.imm 0x80), []) := by decide

theorem test_decode_counts :
    decode [0xFE, 0xFF, 0x12] = .ok (.inc (.abx 0x12FF), []) ∧
    decode [0xD6, 0x10] = .ok (.dec (.zpx 0x10), []) ∧
    decode [0xE8] = .ok (.inx, []) ∧
    decode [0xC8] = .ok (.iny, []) ∧
    decode [0xCA] = .ok (.dex, []) ∧
    decode [0x88] = .ok (.dey, []) := by decide

theorem test_decode_shifts :
    decode [0x0A] = .ok (.asl .imp, []) ∧
    decode [0x4E, 0x34, 0x12] = .ok (.lsr (.abs 0x1234), []) ∧
    decode [0x36, 0x10] = .ok (.rol (.zpx 0x10), []) ∧
    decode [0x7E, 0xFF, 0x12] = .ok (.ror (.abx 0x12FF), []) := by decide

theorem test_decode_branches :
    decode [0x90, 0x02] = .ok (.bcc 0x02, []) ∧
    decode [0xB0, 0x10] = .ok (.bcs 0x10, []) ∧
    decode [0xF0, 0xFE] = .ok (.beq 0xFE, []) ∧
    decode [0xD0, 0xFC] = .ok (.bne 0xFC, []) ∧
    decode [0x30, 0x7F] = .ok (.bmi 0x7F, []) ∧
    decode [0x10, 0x80] = .ok (.bpl 0x80, []) ∧
    decode [0x50, 0x00] = .ok (.bvc 0x00, []) ∧
    decode [0x70, 0x05] = .ok (.bvs 0x05, []) := by decide

theorem test_decode_jumps :
    decode [0x4C, 0x34, 0x12] = .ok (.jmp (.abs 0x1234), []) ∧
    decode [0x6C, 0xFF, 0x30] = .ok (.jmp (.ind 0x30FF), []) ∧
    decode [0x20, 0x00, 0x90] = .ok (.jsr 0x9000, []) ∧
    decode [0x60] = .ok (.rts, []) := by decide

theorem test_decode_stack_flags :
    decode [0x48] = .ok (.pha, []) ∧
    decode [0x08] = .ok (.php, []) ∧
    decode [0x68] = .ok (.pla, []) ∧
    decode [0x28] = .ok (.plp, []) := by decide

theorem test_decode_flags :
    decode [0x18] = .ok (.clc, []) ∧
    decode [0xD8] = .ok (.cld, []) ∧
    decode [0x58] = .ok (.cli, []) ∧
    decode [0xB8] = .ok (.clv, []) ∧
    decode [0x38] = .ok (.sec, []) ∧
    decode [0xF8] = .ok (.sed, []) ∧
    decode [0x78] = .ok (.sei, []) := by decide

theorem test_decode_system :
    decode [0xEA] = .ok (.nop, []) ∧
    decode [0x00] = .ok (.brk, []) ∧
    decode [0x40] = .ok (.rti, []) ∧
    decode [0xEB, 0x01] = .ok (.sbcEb 0x01, []) ∧
    decode [0x02] = .ok (.trap 0x02, []) ∧
    decode [0xFF] = .ok (.trap 0xFF, []) := by decide

/-- A trap slot and BRK consume one byte only (30_encoding.md R85; vectors Y25, Y26). -/
theorem test_decode_oneByte : decode [0x1C, 0xFF, 0x12] = .ok (.trap 0x1C, [0xFF, 0x12]) ∧
    decode [0x80, 0x55] = .ok (.trap 0x80, [0x55]) ∧ decode [0x00, 0x55] = .ok (.brk, [0x55]) := by decide

/-- Missing bytes are the only reason not to decode. -/
theorem test_decode_missing : decode [] = .error .noOpcode ∧ decode [0x69] = .error .truncated ∧
    decode [0x6C, 0xFF] = .error .truncated := by decide

/-- A word of the table: the first byte is its low byte. -/
theorem test_decodeTableWord : decodeTableWord 24 0x1234AD = some (.lda (.abs 0x1234)) ∧
    decodeTableWord 8 0xA9 = some (.lda (.imm 0x00)) := by decide

/-! ### One step -/

/-- The start state of the vectors of spec/95_test_vectors.md: bytes at an address, an instruction
boundary, an empty trace. -/
def box (pc : Word) (bytes : List Byte) : State :=
  ({ State.reset with pc := pc, cycles := 0, bus := [] }).placeBytes pc bytes

/-- The state after one step, which in these tests is always a next state. -/
def done (s : State) : State :=
  match step s with
  | .next t => t
  | .fault _ => s
  | .refused _ => s

/-- The state after one event. -/
def doneEvent (e : Event) (s : State) : State := done { s with hostCalls := [e] }

/-- Vector M3. -/
theorem test_lda_zeroPage_wraps :
    let t := done ({ (((box 0x8000 [0xB5, 0xF0]).placeBytes 0x0010 [0x01]).placeBytes 0x0110 [0xEE]) with x := 0x20 })
    (t.a, t.pc, t.cycles) = (0x01, 0x8002, 3) := by decide

/-- Vector M12. -/
theorem test_lda_indirectY_crosses :
    let t := done ({ (((box 0x8000 [0xB1, 0x20]).placeBytes 0x0020 [0xF0, 0x30]).placeBytes 0x3100 [0x88]) with y := 0x10 })
    (t.a, t.p, t.cycles) = (0x88, 0xA0, 5) := by decide

/-- Vector L5. -/
theorem test_ldx_absoluteY :
    let t := done ({ box 0x8000 [0xBE, 0xFF, 0x12] with y := 0x01 })
    (t.x, t.p, t.cycles) = (0x00, 0x22, 4) := by decide

/-- Vector L4. -/
theorem test_ldy_absoluteX :
    let t := done ({ ((box 0x8000 [0xBC, 0x00, 0x12]).placeBytes 0x12FF [0x80]) with x := 0xFF })
    (t.y, t.p, t.cycles) = (0x80, 0xA0, 3) := by decide

/-- Vector L10. -/
theorem test_sta_indirectX :
    let t := done ({ ((box 0x8000 [0x81, 0x10]).placeBytes 0x0001 [0x02]) with a := 0x22, x := 0xF0 })
    t.bus = [.write 0x0200 0x22, .read 0x0001 0x02, .read 0x0000 0x00, .read 0x8001 0x10, .read 0x8000 0x81] := by decide

/-- Vector L7. -/
theorem test_stx_zeroPageY :
    let t := done ({ box 0x8000 [0x96, 0x10] with x := 0x33, y := 0xF5 })
    t.mem = [(0x0005, 0x33), (0x8000, 0x96), (0x8001, 0x10)] := by decide

/-- Vector L8. -/
theorem test_sty_absolute :
    let t := done ({ box 0x8000 [0x8C, 0x34, 0x12] with y := 0x80 })
    (t.p, t.cycles) = (0x20, 3) := by decide

/-- Vector L11. -/
theorem test_tax :
    let t := done ({ box 0x8000 [0xAA] with a := 0x80 })
    (t.x, t.p) = (0x80, 0xA0) := by decide

/-- Vector L12. -/
theorem test_tay :
    let t := done ({ box 0x8000 [0xA8] with y := 0x05 })
    (t.y, t.p) = (0x00, 0x22) := by decide

/-- Vector L13. -/
theorem test_tsx :
    let t := done (box 0x8000 [0xBA])
    (t.x, t.p) = (0xFD, 0xA0) := by decide

/-- Vector L14. -/
theorem test_txa :
    let t := done ({ box 0x8000 [0x8A] with a := 0x09 })
    (t.a, t.p) = (0x00, 0x22) := by decide

/-- Vector L15. -/
theorem test_txs :
    let t := done ({ box 0x8000 [0x9A] with p := 0xA0 })
    (t.sp, t.p) = (0x00, 0xA0) := by decide

/-- Vector L16. -/
theorem test_tya :
    let t := done ({ box 0x8000 [0x98] with y := 0x7F })
    (t.a, t.p) = (0x7F, 0x20) := by decide

/-- Vector A1. -/
theorem test_adc_overflow :
    let t := done ({ box 0x8000 [0x69, 0x50] with a := 0x50 })
    (t.a, t.p, t.cycles) = (0xA0, 0xE0, 1) := by decide

/-- Vector A9. -/
theorem test_adc_decimal :
    let t := done ({ box 0x8000 [0x69, 0x01] with a := 0x09, p := 0x28 })
    (t.a, t.p) = (0x0A, 0x28) := by decide

/-- Vector A17. -/
theorem test_sbc_borrows :
    let t := done ({ box 0x8000 [0xE9, 0x40] with a := 0x40 })
    (t.a, t.p) = (0xFF, 0xA0) := by decide

/-- Vector A18. -/
theorem test_sbc_overflow :
    let t := done ({ box 0x8000 [0xE9, 0x70] with a := 0xD0, p := 0x21 })
    (t.a, t.p) = (0x60, 0x61) := by decide

/-- Vector Y28. -/
theorem test_sbcEb :
    let t := done ({ box 0x8000 [0xEB, 0x01] with a := 0x80, p := 0x21 })
    (t.a, t.p, t.pc) = (0x7F, 0x61, 0x8002) := by decide

/-- Vector A22. -/
theorem test_and :
    let t := done ({ box 0x8000 [0x29, 0xF0] with a := 0x90, p := 0x63 })
    (t.a, t.p) = (0x90, 0xE1) := by decide

/-- Vector A24. -/
theorem test_ora :
    let t := done ({ ((box 0x8000 [0x05, 0x10]).placeBytes 0x0010 [0x80]) with a := 0x01 })
    (t.a, t.p) = (0x81, 0xA0) := by decide

/-- Vector A26. -/
theorem test_eor :
    let t := done ({ box 0x8000 [0x49, 0xFF] with a := 0x0F })
    (t.a, t.p) = (0xF0, 0xA0) := by decide

/-- Vector A28. -/
theorem test_bit :
    let t := done ({ ((box 0x8000 [0x24, 0x10]).placeBytes 0x0010 [0x01]) with a := 0xFF, p := 0xE2 })
    (t.a, t.p, t.cycles) = (0xFF, 0x20, 2) := by decide

/-- Vector A31. -/
theorem test_cmp :
    let t := done ({ box 0x8000 [0xC9, 0x41] with a := 0x40, p := 0x61 })
    (t.a, t.p) = (0x40, 0xE0) := by decide

/-- Vector A35. -/
theorem test_cpx :
    let t := done ({ ((box 0x8000 [0xE4, 0x10]).placeBytes 0x0010 [0x0F]) with x := 0x10 })
    (t.p, t.cycles) = (0x21, 2) := by decide

/-- Vector A36. -/
theorem test_cpy :
    let t := done ({ box 0x8000 [0xC0, 0x80] with y := 0x7F })
    (t.y, t.p) = (0x7F, 0xA0) := by decide

/-- Vector A39. -/
theorem test_inc :
    let t := done ({ box 0x8000 [0xFE, 0xFF, 0x12] with x := 0x01 })
    (t.p, t.cycles) = (0x20, 6) := by decide

/-- Vector A40. -/
theorem test_dec :
    let t := done (box 0x8000 [0xC6, 0x10])
    t.bus = [.write 0x0010 0xFF, .read 0x0010 0x00, .read 0x8001 0x10, .read 0x8000 0xC6] := by decide

/-- Vector A42. -/
theorem test_inx :
    let t := done ({ box 0x8000 [0xE8] with x := 0xFF })
    (t.x, t.p) = (0x00, 0x22) := by decide

/-- Vector A43. -/
theorem test_iny :
    let t := done ({ box 0x8000 [0xC8] with y := 0x7F })
    (t.y, t.p) = (0x80, 0xA0) := by decide

/-- Vector A44. -/
theorem test_dex :
    let t := done (box 0x8000 [0xCA])
    (t.x, t.p) = (0xFF, 0xA0) := by decide

/-- Vector A45. -/
theorem test_dey :
    let t := done ({ box 0x8000 [0x88] with y := 0x01 })
    (t.y, t.p) = (0x00, 0x22) := by decide

/-- Vector S3. -/
theorem test_asl :
    let t := done ({ box 0x8000 [0x0A] with a := 0x40, p := 0x21 })
    (t.a, t.p) = (0x80, 0xA0) := by decide

/-- Vector S5. -/
theorem test_lsr :
    let t := done ({ box 0x8000 [0x4A] with a := 0x01, p := 0xA0 })
    (t.a, t.p) = (0x00, 0x23) := by decide

/-- Vector S10. -/
theorem test_rol :
    let t := done ({ ((box 0x8000 [0x36, 0x10]).placeBytes 0x0011 [0x7F]) with x := 0x01, p := 0x21 })
    t.bus = [.write 0x0011 0xFF, .read 0x0011 0x7F, .read 0x8001 0x10, .read 0x8000 0x36] := by decide

/-- Vector S12. -/
theorem test_ror :
    let t := done ({ box 0x8000 [0x6A] with p := 0x21 })
    (t.a, t.p) = (0x80, 0xA0) := by decide

/-- Vector B2. -/
theorem test_bcc_notTaken :
    let t := done ({ box 0x8000 [0x90, 0x02] with p := 0x21 })
    (t.pc, t.cycles) = (0x8002, 1) := by decide

/-- Vector B3. -/
theorem test_bcs :
    let t := done ({ box 0x8000 [0xB0, 0x10] with p := 0x21 })
    (t.pc, t.cycles) = (0x8012, 2) := by decide

/-- Vector B4. -/
theorem test_beq :
    let t := done ({ box 0x8000 [0xF0, 0xFE] with p := 0x22 })
    (t.pc, t.cycles) = (0x8000, 2) := by decide

/-- Vector B5. -/
theorem test_bne :
    let t := done (box 0x8005 [0xD0, 0xFC])
    (t.pc, t.cycles) = (0x8003, 2) := by decide

/-- Vector B6. -/
theorem test_bmi :
    let t := done ({ box 0x8000 [0x30, 0x7F] with p := 0xA0 })
    (t.pc, t.cycles) = (0x8081, 2) := by decide

/-- Vector B7. -/
theorem test_bpl_crosses :
    let t := done (box 0x8000 [0x10, 0x80])
    (t.pc, t.cycles) = (0x7F82, 3) := by decide

/-- Vector B8. -/
theorem test_bvc :
    let t := done (box 0x80FE [0x50, 0x00])
    (t.pc, t.cycles) = (0x8100, 2) := by decide

/-- Vector B9. -/
theorem test_bvs_crosses :
    let t := done ({ box 0x80FD [0x70, 0x05] with p := 0x60 })
    (t.pc, t.cycles) = (0x8104, 3) := by decide

/-- Vector M16. -/
theorem test_jmp_indirect_quirk :
    let t := done (((box 0x8000 [0x6C, 0xFF, 0x30]).placeBytes 0x3000 [0x50]).placeBytes 0x30FF [0x80, 0x40])
    (t.pc, t.cycles) = (0x5080, 4) := by decide

/-- Vector B16. -/
theorem test_jsr_stack_wraps :
    let t := done ({ box 0x8000 [0x20, 0x00, 0x90] with sp := 0x00 })
    t.bus = [.write 0x01FF 0x02, .write 0x0100 0x80, .read 0x8002 0x90, .read 0x8001 0x00, .read 0x8000 0x20] := by decide

/-- Vector B17. -/
theorem test_rts :
    let t := done ({ ((box 0x9000 [0x60]).placeBytes 0x01FC [0x02, 0x80]) with sp := 0xFB })
    (t.pc, t.sp, t.cycles) = (0x8003, 0xFD, 5) := by decide

/-- Vector Y2. -/
theorem test_pha_stack_wraps :
    let t := done ({ box 0x8000 [0x48] with a := 0x42, sp := 0x00 })
    (t.sp, t.cycles) = (0xFF, 2) := by decide

/-- Vector Y3. -/
theorem test_php :
    let t := done ({ box 0x8000 [0x08] with p := 0x23 })
    (t.p, t.bus) = (0x23, [.write 0x01FD 0x33, .read 0x8000 0x08]) := by decide

/-- Vector Y6. -/
theorem test_pla_stack_wraps :
    let t := done ({ box 0x8000 [0x68] with a := 0x01, sp := 0xFF })
    (t.a, t.sp, t.p) = (0x00, 0x00, 0x22) := by decide

/-- Vector Y7. -/
theorem test_plp :
    let t := done ({ ((box 0x8000 [0x28]).placeBytes 0x01FD [0xFF]) with sp := 0xFC })
    (t.sp, t.p, t.cycles) = (0xFD, 0xEF, 3) := by decide

/-- Vector Y10. -/
theorem test_clc :
    let t := done ({ box 0x8000 [0x18] with p := 0xEF })
    t.p = 0xEE := by decide

/-- Vector Y11. -/
theorem test_cld :
    let t := done ({ box 0x8000 [0xD8] with p := 0xEF })
    t.p = 0xE7 := by decide

/-- Vector Y12. -/
theorem test_cli :
    let t := done ({ box 0x8000 [0x58] with p := 0xEF })
    t.p = 0xEB := by decide

/-- Vector Y13. -/
theorem test_clv :
    let t := done ({ box 0x8000 [0xB8] with p := 0xEF })
    t.p = 0xAF := by decide

/-- Vector Y14. -/
theorem test_sec :
    let t := done (box 0x8000 [0x38])
    t.p = 0x21 := by decide

/-- Vector Y15. -/
theorem test_sed :
    let t := done (box 0x8000 [0xF8])
    t.p = 0x28 := by decide

/-- Vector Y16. -/
theorem test_sei :
    let t := done (box 0x8000 [0x78])
    t.p = 0x24 := by decide

/-- Vector Y17. -/
theorem test_nop :
    let t := done ({ box 0x8000 [0xEA] with a := 0x01, p := 0xEF })
    (t.a, t.p, t.pc, t.cycles) = (0x01, 0xEF, 0x8001, 1) := by decide

/-- Vector Y18. -/
theorem test_brk :
    let t := done ({ ((box 0x8000 [0x00]).placeBytes 0xFFFE [0x00, 0x90]) with p := 0x21 })
    (t.pc, t.sp, t.p, t.bus) = 
      (0x9000, 0xFA, 0x25, [.read 0xFFFF 0x90, .read 0xFFFE 0x00, .write 0x01FB 0x31, .write 0x01FC 0x02,
        .write 0x01FD 0x80, .read 0x8000 0x00]) := by decide

/-- Vector Y22. -/
theorem test_rti :
    let t := done ({ ((box 0x9000 [0x40]).placeBytes 0x01FB [0xCF, 0x34, 0x12]) with sp := 0xFA, p := 0x24 })
    (t.pc, t.sp, t.p, t.cycles) = (0x1234, 0xFD, 0xEF, 5) := by decide

/-- Vector Y25. -/
theorem test_trap_no_penalty :
    let t := done ({ box 0x8000 [0x1C, 0xFF, 0x12] with x := 0x01 })
    (t.pc, t.cycles, t.bus) = (0x8001, 3, [.read 0x8000 0x1C]) := by decide

/-- Trace T1, first row (R270): the registers, the vector read low byte first. -/
theorem test_reset_event :
    let t := doneEvent .reset (({ box 0x1234 [] with a := 0x55, sp := 0x10, p := 0xEF } : State).placeBytes 0xFFFC [0x00, 0x80])
    (t.a, t.sp, t.p, t.pc, t.cycles, t.bus) =
      (0x00, 0xFD, 0x20, 0x8000, 8, [.read 0xFFFD 0x80, .read 0xFFFC 0x00]) := by decide

/-- Trace T2, step 7: an `Irq` with Interrupt-disable clear. -/
theorem test_irq_taken :
    let t := doneEvent .irq ((box 0x8003 []).placeBytes 0xFFFE [0x00, 0x90])
    (t.sp, t.p, t.pc, t.cycles, t.bus) =
      (0xFA, 0x24, 0x9000, 7, [.read 0xFFFF 0x90, .read 0xFFFE 0x00, .write 0x01FB 0x20, .write 0x01FC 0x03,
        .write 0x01FD 0x80]) := by decide

/-- A masked `Irq` leaves no trace (60_exceptions.md R242). -/
theorem test_irq_masked :
    doneEvent .irq { box 0x8000 [] with p := 0x24 } = { box 0x8000 [] with p := 0x24 } := by decide

/-- `Nmi` is taken with Interrupt-disable set, through its own vector (60_exceptions.md R243). -/
theorem test_nmi :
    let t := doneEvent .nmi (({ box 0x8000 [] with p := 0x24 } : State).placeBytes 0xFFFA [0x00, 0x91])
    (t.p, t.pc, t.cycles) = (0x24, 0x9100, 8) := by decide

/-- Trace T1: the delay after an instruction counts, and the total grows (40_step_and_dispatch.md R100). -/
theorem test_delay_tick :
    let t := done State.reset
    (t.cycles, t.totalCycles, t.pc, t.bus) = (7, 1, 0x0000, State.reset.bus) := by decide

/-- RAM below, a program device above, nothing between: the platform of E10. -/
def gapPlatform : Platform :=
  { devices := [⟨0x0000, 0x07FF, .ram⟩, ⟨0x8000, 0xFFFF, .rom⟩], undocCycles := [] }

/-- E10: a read of an unmapped address gives 0x00, a write goes nowhere. -/
theorem test_unmapped :
    let t := done { box 0x8000 [0xAD, 0x00, 0x40] with platform := gapPlatform, a := 0x55 }
    let u := done { box 0x8000 [0x8D, 0x00, 0x40] with platform := gapPlatform, a := 0x55 }
    (t.a, t.p) = (0x00, 0x22) ∧ u.mem = (box 0x8000 [0x8D, 0x00, 0x40]).mem := by decide

/-- A write to read-only memory is a no-op (20_memory.md R63). -/
theorem test_rom_write :
    let s := { box 0x8000 [0x8D, 0x00, 0x80] with platform := gapPlatform, a := 0x55 }
    (done s).mem = s.mem := by decide

/-- UNDOC_CYCLES overrides a trap's cost (00_scope.md R5). -/
theorem test_undoc_cycles :
    (done { box 0x8000 [0x02] with platform := { Config.testPlatform with undocCycles := [(0x02, 5)] } }).cycles = 4 := by
  decide

/-- The placing of an instruction: the next step from reset runs it. -/
theorem test_withFetchWord :
    let t := done (State.reset.withFetchWord 16 0x55A9)
    (t.a, t.pc, t.cycles) = (0x55, 0x0002, 1) := by decide

/-- The end of a run (70_reset_and_hazards.md R279): vector B13's `JMP` to itself, vector B4's taken branch
with displacement 0xFE, and an indirect `JMP` whose pointer, at the end of a page, holds its own address. -/
theorem test_finished :
    (box 0x8000 [0x4C, 0x00, 0x80]).finished = true ∧
    ({ box 0x8000 [0xF0, 0xFE] with p := 0x22 } : State).finished = true ∧
    (((box 0x8000 [0x6C, 0xFF, 0x30]).placeBytes 0x30FF [0x00, 0x40]).placeBytes 0x3000 [0x80]).finished = true := by
  decide

/-- Not the end of a run: a countdown still running, a branch not taken, an indirect `JMP` elsewhere, and
one whose pointer would lead to itself without the page-wrap quirk. -/
theorem test_not_finished :
    ({ box 0x8000 [0x4C, 0x00, 0x80] with cycles := 1 } : State).finished = false ∧
    (box 0x8000 [0xF0, 0xFE]).finished = false ∧
    ((box 0x8000 [0x6C, 0x10, 0x30]).placeBytes 0x3010 [0x03, 0x80]).finished = false ∧
    ((box 0x8000 [0x6C, 0xFF, 0x30]).placeBytes 0x30FF [0x00, 0x80]).finished = false := by decide

/-- Memory stays in canonical form: writing the fill value takes the entry away. -/
theorem test_memory_canonical : (Memory.write [(0x10, 0x01)] 0x10 0x00, Memory.write [(0x10, 0x01)] 0x08 0x02) =
    (([], [(0x08, 0x02), (0x10, 0x01)]) : Memory × Memory) := by decide

/-! ### Witnesses: a state and operands that meet all the hypotheses of an obligation

Statements without hypotheses need none. -/

/-- An instruction boundary with `LDA #$55` at 0x8000. -/
def lda : State := box 0x8000 [0xA9, 0x55]

theorem witness_DecodeAfterEncode : Instr.wf (.sta (.izy 0xFF)) = true := by decide

theorem witness_EncodeAfterDecode : decode [0x6C, 0xFF, 0x30, 0x00] = .ok (.jmp (.ind 0x30FF), [0x00]) := by decide

theorem witness_EveryOpcodeDecodes : (entry 0x6C).format.operandBytes = 2 ∧ (entry 0xFF).format.operandBytes = 0 := by
  decide

theorem witness_StepRunsTheDecodedInstruction :
    Instr.wf (.lda (.imm 0x55)) = true ∧ lda.hasReset = true ∧ lda.cycles = 0 ∧ lda.nextEvent.1 = .tick ∧
      HoldsAt lda lda.pc (encode (.lda (.imm 0x55))) :=
  ⟨by decide, rfl, rfl, rfl, by decide, by decide, by decide, by decide, trivial⟩

theorem witness_TickStepsAtZeroElseCounts :
    State.reset.hasReset = true ∧ State.reset.nextEvent.1 = .tick ∧ State.reset.cycles ≠ 0 ∧
      lda.hasReset = true ∧ lda.nextEvent.1 = .tick ∧ lda.cycles = 0 := by decide

theorem witness_DelayRunOnlyCounts :
    State.reset.hasReset = true ∧ State.reset.hostCalls = [] ∧ 8 ≤ State.reset.cycles := by decide

theorem witness_FirstInstructionAtNinthTick : State.reset.hostCalls = [] := rfl

/-- A trap, a branch and an indexed form: the three clauses. -/
theorem witness_CostsFollowTheTable :
    (ofBytes 0x1C 0x00 0x00).op = .trap ∧ (ofBytes 0xD0 0xFC 0x00).mode.format = .rel ∧
      (ofBytes 0xBD 0xFF 0x12).op ≠ .trap ∧ (ofBytes 0xBD 0xFF 0x12).mode.format ≠ .rel := by decide

theorem witness_EveryStepHasANextState : State.reset.hasReset = true := rfl

/-- A core before its first `Reset`. -/
def unreset (calls : List Event) : State := { State.reset with hasReset := false, hostCalls := calls }

theorem witness_EventsBeforeResetRefused :
    (unreset []).hasReset = false ∧ (unreset []).nextEvent.1 = .tick ∧ (unreset [.irq]).nextEvent.1 = .irq ∧
      (unreset [.nmi]).nextEvent.1 = .nmi := by decide

theorem witness_StepKeepsTheBooks :
    step lda = .next (done lda) ∧ step { lda with hostCalls := [.nmi] } = .next (doneEvent .nmi lda) := ⟨rfl, rfl⟩

theorem witness_ResetStateIsTheResetEvents :
    ({ State.reset with bus := [], a := 0x55 } : State).mem = [] ∧
      ({ State.reset with bus := [], a := 0x55 } : State).bus = [] ∧
      ({ State.reset with bus := [], a := 0x55 } : State).hostCalls = [] ∧
      ({ State.reset with bus := [], a := 0x55 } : State).totalCycles = 0 ∧
      ({ State.reset with bus := [], a := 0x55 } : State).platform = Config.testPlatform := by decide

/-- Interrupt-disable set. -/
def masked : State := { lda with p := 0x24 }

theorem witness_IrqEntersUnlessMasked :
    lda.hasReset = true ∧ lda.flag .i = false ∧ masked.hasReset = true ∧ masked.flag .i = true := by decide

theorem witness_NmiAlwaysEnters : masked.hasReset = true := rfl

theorem witness_IrqAfterEntryIsDropped :
    lda.hasReset = true ∧ lda.flag .i = false ∧ event .irq lda = .next (doneEvent .irq lda) ∧
      event .nmi lda = .next (doneEvent .nmi lda) := ⟨rfl, by decide, rfl, rfl⟩

/-- The whole stack page is plain memory on the test platform. -/
theorem stackRam_box (pc : Word) (bytes : List Byte) (n : Nat)
    (h : (box pc bytes).platform = Config.testPlatform) : StackRam (box pc bytes) n := fun _ _ => by
  rw [h]
  exact ramAt_testPlatform _

theorem witness_ReturnUndoesEntry :
    lda.hasReset = true ∧ lda.flag .u = true ∧ StackRam lda 3 ∧ lda.flag .i = false ∧
      event .nmi lda = .next (doneEvent .nmi lda) ∧ event .irq lda = .next (doneEvent .irq lda) ∧
      ∃ t, exec .brk lda = .next t :=
  ⟨rfl, by decide, stackRam_box _ _ _ (by decide), by decide, rfl, rfl, _, rfl⟩

/-- Both ends of a registration, behind another one. -/
theorem witness_FirstRegistrationHandles :
    gapPlatform.devices = [⟨0x0000, 0x07FF, .ram⟩] ++ ⟨0x8000, 0xFFFF, .rom⟩ :: [] ∧
      (0x8000 : Word).toNat ≤ (0x8000 : Word).toNat ∧ (0xFFFF : Word).toNat ≤ (0xFFFF : Word).toNat ∧
      ∀ e ∈ [(⟨0x0000, 0x07FF, .ram⟩ : Device)],
        (0x8000 : Word).toNat < e.first.toNat ∨ e.last.toNat < (0x8000 : Word).toNat := by decide

/-- One past the end of a device and one before the start of the next. -/
theorem witness_UnmappedReadsZeroDropsWrites :
    (∀ d ∈ gapPlatform.devices, (0x0800 : Word).toNat < d.first.toNat ∨ d.last.toNat < (0x0800 : Word).toNat) ∧
      (∀ d ∈ gapPlatform.devices, (0x7FFF : Word).toNat < d.first.toNat ∨ d.last.toNat < (0x7FFF : Word).toNat) ∧
      ({ lda with pc := 0x7FFF, platform := gapPlatform } : State).pc = 0x7FFF := by decide

theorem witness_PlainMemoryReturnsLastWrite :
    ramAt gapPlatform 0x07FF = true ∧ plainAt gapPlatform 0x8000 = true ∧ ramAt gapPlatform 0x8000 = false ∧
      (0x07FF : Word) ≠ 0x8000 := by decide

theorem witness_MemoryIsReplayOfTheTrace : step lda = .next (done lda) := rfl

/-- The operand read of `LDA #$55` is the newest transaction of its step; and on the platform with a gap
the read of an unmapped address. -/
theorem witness_ReadsReturnTheLastWrite :
    (done lda).bus = [] ++ .read 0x8001 0x55 :: [.read 0x8000 0xA9] ++ lda.bus ∧
      plainAt lda.platform 0x8001 = true ∧
      (done { box 0x8000 [0xAD, 0x00, 0x40] with platform := gapPlatform }).bus =
        [] ++ .read 0x4000 0x00 :: [.read 0x8002 0x40, .read 0x8001 0x00, .read 0x8000 0xAD] ++ [] ∧
      deviceAt gapPlatform 0x4000 = none := by decide

theorem witness_PushThenPop : ramAt lda.platform (stackAddr lda.sp) = true := by decide

/-- The two pointer bytes of the page-wrap quirk and of the zero-page wrap are plain memory. -/
theorem witness_PointerRead : plainAt lda.platform 0x3000 = true ∧ plainAt lda.platform 0x0000 = true := by decide

theorem witness_OperandReadsOnce :
    Mode.format .imp = .imp ∧ Mode.format (.abs 0x1234) ≠ .imp ∧ Mode.format (.abs 0x1234) ≠ .imm := by decide

theorem witness_StoresWriteTheRegister : Mode.format (.zp0 0xFF) ≠ .imp := by decide

theorem witness_JmpGoesToTheAddress : Mode.format (.ind 0x30FF) ≠ .imp := by decide

/-- Both clauses (taken, not taken), and of the taken one the boundary targets of R191: the last byte of
the page, the first of the next, back across a page, and round the end of the address space. -/
theorem witness_BranchesTestTheirFlag :
    (box 0x80FE []).flag .v = false ∧ (box 0x80FE []).pc + sext16 0x01 = 0x80FF ∧
    (box 0x80FE []).pc + sext16 0x02 = 0x8100 ∧ (box 0x8002 []).pc + sext16 0x80 = 0x7F82 ∧
    (box 0xFFFF []).pc + sext16 0x7F = 0x007E ∧ (box 0x8000 []).flag .n = false ∧
    (box 0x8000 []).flag .c ≠ true := by decide

theorem witness_RtsUndoesJsr : StackRam lda 2 ∧ ∃ t, exec (.jsr 0x9000) lda = .next t :=
  ⟨stackRam_box _ _ _ (by decide), _, rfl⟩

theorem witness_PullsLoadOneByte : Flag.c ≠ .b ∧ Flag.c ≠ .u := by decide

theorem witness_StatusRoundTrip :
    lda.flag .u = true ∧ lda.flag .b = false ∧ StackRam lda 1 ∧ (∃ t, exec .php lda = .next t) ∧
      ∃ t, exec .pha lda = .next t :=
  ⟨by decide, by decide, stackRam_box _ _ _ (by decide), ⟨_, rfl⟩, _, rfl⟩

/-- For each register, and for memory, an instruction that changes it. -/
theorem witness_RegisterAndMemoryWriters :
    (done lda).a ≠ lda.a ∧ (done (box 0x8000 [0xE8])).x ≠ 0x00 ∧ (done (box 0x8000 [0xC8])).y ≠ 0x00 ∧
      (done (box 0x8000 [0x48])).sp ≠ 0xFD ∧ (done (box 0x8000 [0x4C, 0x00, 0x90])).pc ≠ 0x8003 ∧
      (done (box 0x8000 [0xE6, 0x10])).mem.byteAt 0x10 ≠ (box 0x8000 [0xE6, 0x10]).mem.byteAt 0x10 := by decide

/-- For each flag an instruction can change, one that does. -/
theorem witness_FlagWriters :
    (done (box 0x8000 [0xF8])).flag .d ≠ lda.flag .d ∧ (done (box 0x8000 [0x78])).flag .i ≠ lda.flag .i ∧
      (done (box 0x8000 [0x38])).flag .c ≠ lda.flag .c ∧ (done (box 0x8000 [0xA9, 0x00])).flag .z ≠ lda.flag .z ∧
      (done (box 0x8000 [0xA9, 0x80])).flag .n ≠ lda.flag .n ∧
      (done { box 0x8000 [0x69, 0x50] with a := 0x50 }).flag .v ≠ lda.flag .v ∧
      (done { box 0x8000 [0x28] with p := 0x00 }).flag .u ≠ ({ lda with p := 0x00 } : State).flag .u := by decide

/-- A state far from reset that has the invariant, and takes a step. -/
theorem witness_InvariantKept : Inv lda ∧ step lda = .next (done lda) :=
  ⟨⟨by decide, by decide, fun _ => by decide, fun _ => by decide, fun _ => by decide⟩, rfl⟩

theorem witness_PlacedWordRunsNext : decodeTableWord 16 0x55A9 = some (.lda (.imm 0x55)) := by decide

end Sys2Proof.Tests
end

section
/-! SUPPORT. What an instruction may change, said once for all of them: the parts of the state the
rules name writers of, how the changes of the shared operations compose, and the footprint of each
instruction (10_state.md R21 to R37). -/

namespace Sys2Proof.Machine

/-- The parts of the state that the rules name writers of (10_state.md R21 to R37). -/
inductive Part where
  | a | x | y | sp | pc | mem | cycles
  | flag (f : Flag)
deriving DecidableEq

/-- A part has the same value in two states. -/
def Part.Same (s t : State) : Part → Prop
  | .a => t.a = s.a
  | .x => t.x = s.x
  | .y => t.y = s.y
  | .sp => t.sp = s.sp
  | .pc => t.pc = s.pc
  | .mem => t.mem = s.mem
  | .cycles => t.cycles = s.cycles
  | .flag f => t.flag f = s.flag f

/-- From `s` to `t` no part outside the listed ones changes, nor do the surroundings, and memory
changes by bus transactions only. -/
structure ChangesOnly (parts : List Part) (s t : State) : Prop where
  same : ∀ p, p ∉ parts → p.Same s t
  surroundings : SurroundingsKept s t
  traced : Traced s t

theorem Part.Same.trans {s t u : State} {p : Part} (h : p.Same s t) (h' : p.Same t u) :
    p.Same s u := by
  cases p <;> exact Eq.trans h' h

theorem surroundingsKept_trans {s t u : State} (h : SurroundingsKept s t)
    (h' : SurroundingsKept t u) : SurroundingsKept s u := by
  obtain ⟨htotal, hopcode, hcalls, hreset, hplatform⟩ := h
  obtain ⟨htotal', hopcode', hcalls', hreset', hplatform'⟩ := h'
  exact ⟨htotal'.trans htotal, hopcode'.trans hopcode, hcalls'.trans hcalls,
    hreset'.trans hreset, hplatform'.trans hplatform⟩

namespace ChangesOnly

theorem mono {parts parts' : List Part} {s t : State} (h : ChangesOnly parts s t)
    (hsub : parts ⊆ parts') : ChangesOnly parts' s t :=
  ⟨fun p hp => h.same p fun hmem => hp (hsub hmem), h.surroundings, h.traced⟩

theorem trans {parts parts' : List Part} {s t u : State} (h : ChangesOnly parts s t)
    (h' : ChangesOnly parts' t u) : ChangesOnly (parts ++ parts') s u where
  same p hp :=
    (h.same p fun hmem => hp (List.mem_append_left _ hmem)).trans
      (h'.same p fun hmem => hp (List.mem_append_right _ hmem))
  surroundings := surroundingsKept_trans h.surroundings h'.surroundings
  traced := h.traced.trans h'.traced

/-- A part that did change is a listed one. -/
theorem mem_of_changed {parts : List Part} {s t : State} (h : ChangesOnly parts s t) {p : Part}
    (hp : ¬ p.Same s t) : p ∈ parts :=
  Decidable.byContradiction fun hmem => hp (h.same p hmem)

/-- Without a bus transaction memory stays as it is. -/
theorem of_bus_eq {parts : List Part} {s t : State} (hsame : ∀ p, p ∉ parts → p.Same s t)
    (hkept : SurroundingsKept s t) (hbus : t.bus = s.bus) (hmem : t.mem = s.mem) :
    ChangesOnly parts s t := by
  have ⟨_, _, _, _, hplatform⟩ := hkept
  exact ⟨hsame, hkept, (Traced.refl s).congr hplatform hbus hmem⟩

theorem refl (parts : List Part) (s : State) : ChangesOnly parts s s :=
  of_bus_eq (fun p _ => by cases p <;> rfl) ⟨rfl, rfl, rfl, rfl, rfl⟩ rfl rfl

/-! ### Updates of one part -/

theorem setTemp (s : State) (w : Word) : ChangesOnly [] s { s with temp := w } :=
  of_bus_eq (fun p _ => by cases p <;> rfl) ⟨rfl, rfl, rfl, rfl, rfl⟩ rfl rfl

theorem setA (s : State) (v : Byte) : ChangesOnly [.a] s { s with a := v } :=
  of_bus_eq (fun p hp => by cases p with | a => exact absurd (by decide) hp | _ => rfl)
    ⟨rfl, rfl, rfl, rfl, rfl⟩ rfl rfl

theorem setX (s : State) (v : Byte) : ChangesOnly [.x] s { s with x := v } :=
  of_bus_eq (fun p hp => by cases p with | x => exact absurd (by decide) hp | _ => rfl)
    ⟨rfl, rfl, rfl, rfl, rfl⟩ rfl rfl

theorem setY (s : State) (v : Byte) : ChangesOnly [.y] s { s with y := v } :=
  of_bus_eq (fun p hp => by cases p with | y => exact absurd (by decide) hp | _ => rfl)
    ⟨rfl, rfl, rfl, rfl, rfl⟩ rfl rfl

theorem setSp (s : State) (v : Byte) : ChangesOnly [.sp] s { s with sp := v } :=
  of_bus_eq (fun p hp => by cases p with | sp => exact absurd (by decide) hp | _ => rfl)
    ⟨rfl, rfl, rfl, rfl, rfl⟩ rfl rfl

theorem setPc (s : State) (w : Word) : ChangesOnly [.pc] s { s with pc := w } :=
  of_bus_eq (fun p hp => by cases p with | pc => exact absurd (by decide) hp | _ => rfl)
    ⟨rfl, rfl, rfl, rfl, rfl⟩ rfl rfl

theorem startCycles (s : State) (n : Nat) : ChangesOnly [.cycles] s (s.startCycles n) :=
  of_bus_eq (fun p hp => by cases p with | cycles => exact absurd (by decide) hp | _ => rfl)
    ⟨rfl, rfl, rfl, rfl, rfl⟩ rfl rfl

theorem penalty (s : State) (extra : Bool) : ChangesOnly [.cycles] s (s.penalty extra) :=
  of_bus_eq (fun p hp => by cases p with | cycles => exact absurd (by decide) hp | _ => rfl)
    ⟨rfl, rfl, rfl, rfl, rfl⟩ rfl rfl

theorem withFlag (s : State) (f : Flag) (v : Bool) : ChangesOnly [.flag f] s (s.withFlag f v) := by
  refine of_bus_eq (fun p hp => ?_) ⟨rfl, rfl, rfl, rfl, rfl⟩ rfl rfl
  cases p with
  | flag g =>
    have hne : g ≠ f := fun h => hp (by rw [h]; exact List.mem_singleton_self _)
    exact (flag_withFlag s f g v).trans (if_neg hne)
  | _ => rfl

/-! ### The bus and the stack -/

theorem memRead (s : State) (w : Word) : ChangesOnly [] s (s.memRead w).2 :=
  ⟨fun p _ => by cases p <;> rfl, ⟨rfl, rfl, rfl, rfl, rfl⟩, memRead_traced s w⟩

theorem memWrite (s : State) (w : Word) (v : Byte) : ChangesOnly [.mem] s (s.memWrite w v) :=
  ⟨fun p hp => by cases p with | mem => exact absurd (by decide) hp | _ => rfl,
    ⟨rfl, rfl, rfl, rfl, rfl⟩, memWrite_traced s w v⟩

theorem read16 (s : State) (u w : Word) : ChangesOnly [] s (s.read16 u w).2 :=
  (memRead s u).trans (memRead _ w)

theorem push (s : State) (v : Byte) : ChangesOnly [.sp, .mem] s (s.push v) :=
  ((memWrite s _ v).trans (setSp _ _)).mono (by decide)

theorem pop (s : State) : ChangesOnly [.sp] s s.pop.2 := (setSp s _).trans (memRead _ _)

theorem pushWord (s : State) (w : Word) : ChangesOnly [.sp, .mem] s (s.pushWord w) :=
  ((push s _).trans (push _ _)).mono (by decide)

theorem popWord (s : State) : ChangesOnly [.sp] s s.popWord.2 :=
  ((pop s).trans (pop _)).mono (by decide)

end ChangesOnly

/-! ### Flag computations, status pops, interrupt entry and return -/

/-- The flags that `SetZN` writes (40_step_and_dispatch.md R107). -/
def znParts : List Part := [.flag .z, .flag .n]

/-- The flags that a popped status byte may change: all but Break (46_stack_flags_system.md R211). -/
def statusParts : List Part :=
  [.flag .c, .flag .z, .flag .i, .flag .d, .flag .u, .flag .v, .flag .n]

/-- What an add with carry writes (43_arithmetic_logic.md R161). -/
def addParts : List Part := [.flag .c, .flag .v, .a] ++ znParts

/-- What a compare writes (43_arithmetic_logic.md R167). -/
def compareParts : List Part := [.flag .c, .flag .z, .flag .n]

/-- Where a shift or rotate leaves its result (40_step_and_dispatch.md R106). -/
def resultParts : Mode → List Part
  | .imp => [.a]
  | _ => [.mem]

namespace ChangesOnly

theorem setZN (s : State) (v : Byte) : ChangesOnly znParts s (s.setZN v) :=
  (withFlag s .z (v == 0)).trans (withFlag _ .n v.msb)

theorem addWithCarry (s : State) (m : Byte) : ChangesOnly addParts s (s.addWithCarry m) :=
  ((((setTemp s _).trans (withFlag _ .c _)).trans (withFlag _ .v _)).trans (setA _ _)).trans
    (setZN _ _)

theorem compare (s : State) (reg m : Byte) : ChangesOnly compareParts s (s.compare reg m) :=
  (((setTemp s _).trans (withFlag _ .c _)).trans (withFlag _ .z _)).trans (withFlag _ .n _)

theorem writeBack (m : Mode) (s : State) (v : Byte) :
    ChangesOnly (resultParts m) s (writeBack m s v) := by
  cases m with
  | imp => exact setA s v
  | _ => exact memWrite s _ v

/-- Replacing the status by a popped byte leaves Break alone. -/
theorem setStatus (s : State) (v : Byte) :
    ChangesOnly statusParts s { s with p := poppedStatus s.p v } := by
  refine of_bus_eq (fun p hp => ?_) ⟨rfl, rfl, rfl, rfl, rfl⟩ rfl rfl
  cases p with
  | flag f =>
    cases f with
    | b => exact getFlag_poppedStatus s.p v .b
    | _ => exact absurd (by decide) hp
  | _ => rfl

theorem popP (s : State) : ChangesOnly (.sp :: statusParts) s s.popP :=
  (pop s).trans (setStatus _ _)

theorem enterInterrupt (s : State) (b : Bool) (vector : Word) :
    ChangesOnly [.sp, .mem, .flag .i, .pc] s (s.enterInterrupt b vector) :=
  (((((pushWord s _).trans (push _ _)).trans (withFlag _ .i true)).trans (read16 _ _ _)).trans
    (setPc _ _)).mono (by decide)

theorem returnFromInterrupt (s : State) :
    ChangesOnly (.sp :: .pc :: statusParts) s s.returnFromInterrupt :=
  (((popP s).trans (popWord _)).trans (setPc _ _)).mono (by decide)

/-! ### The mode routine and the operand -/

theorem resolve (m : Mode) (s : State) : ChangesOnly [] s (resolve m s).1 := by
  have htraced : Traced s (Machine.resolve m s).1 := by
    cases m with
    | ind _ | izx _ | izy _ => exact (read16 s _ _).traced.congr rfl rfl rfl
    | _ => exact (Traced.refl s).congr rfl rfl rfl
  refine ⟨fun p _ => ?_, by simp [SurroundingsKept], htraced⟩
  cases p <;> simp [Part.Same, State.flag]

theorem operand (m : Mode) (s : State) : ChangesOnly [] s (operand m s).2 := by
  have htraced : Traced s (Machine.operand m s).2 := by
    cases m with
    | imp | imm _ => exact (Traced.refl s).congr rfl rfl rfl
    | _ => exact (memRead s _).traced.congr rfl rfl rfl
  refine ⟨fun p _ => ?_, by simp [SurroundingsKept], htraced⟩
  cases p <;> simp [Part.Same, State.flag]

theorem address (s : State) (base : Nat) (m : Mode) :
    ChangesOnly [.cycles] s (s.address base m).1 :=
  (startCycles s base).trans (resolve m _)

end ChangesOnly

/-! ### Base costs -/

theorem readCycles_le (m : Mode) : readCycles m ≤ 7 := by
  unfold readCycles
  split <;> decide

theorem storeCycles_le (m : Mode) : storeCycles m ≤ 8 := by
  unfold storeCycles
  split <;> decide

theorem modifyCycles_le (m : Mode) : modifyCycles m ≤ 7 := by
  unfold modifyCycles
  split <;> decide

theorem jumpCycles_le (m : Mode) : jumpCycles m ≤ 8 := by
  unfold jumpCycles
  split <;> decide

theorem entry_baseCycles_le (o : Byte) : (entry o).baseCycles ≤ 8 := by
  revert o
  decide

/-- A trap slot costs at most 8 cycles when UNDOC_CYCLES is in its range (00_scope.md R5). -/
theorem trapCycles_le {p : Platform} (h : p.wf = true) (o : Byte) : trapCycles p o ≤ 8 := by
  unfold trapCycles
  cases hlookup : p.undocCycles.lookup o with
  | none => exact entry_baseCycles_le o
  | some n =>
    obtain ⟨l, l', hl, -⟩ := List.lookup_eq_some_iff.mp hlookup
    have hmem : (o, n) ∈ p.undocCycles := by rw [hl]; simp
    have hn := List.all_eq_true.mp h _ hmem
    simp only [Bool.and_eq_true, decide_eq_true_eq] at hn
    exact hn.2

/-! ### Every instruction runs inside its footprint -/

/-- The parts of the state an instruction may change, the countdown apart. -/
def footprint : Instr → List Part
  | .lda _ | .txa | .tya | .and _ | .ora _ | .eor _ => .a :: znParts
  | .ldx _ | .tax | .tsx | .inx | .dex => .x :: znParts
  | .ldy _ | .tay | .iny | .dey => .y :: znParts
  | .sta _ | .stx _ | .sty _ => [.mem]
  | .txs => [.sp]
  | .adc _ | .sbc _ | .sbcEb _ => addParts
  | .bit _ => [.flag .z, .flag .n, .flag .v]
  | .cmp _ | .cpx _ | .cpy _ => compareParts
  | .inc _ | .dec _ => .mem :: znParts
  | .asl m | .lsr m | .rol m | .ror m => .flag .c :: (znParts ++ resultParts m)
  | .bcc _ | .bcs _ | .beq _ | .bne _ | .bmi _ | .bpl _ | .bvc _ | .bvs _ | .jmp _ => [.pc]
  | .jsr _ => [.sp, .mem, .pc]
  | .rts => [.sp, .pc]
  | .pha | .php => [.sp, .mem]
  | .pla => .sp :: .a :: znParts
  | .plp => .sp :: statusParts
  | .clc | .sec => [.flag .c]
  | .cld | .sed => [.flag .d]
  | .cli | .sei => [.flag .i]
  | .clv => [.flag .v]
  | .nop | .trap _ => []
  | .brk => [.pc, .sp, .mem, .flag .i, .pc]
  | .rti => .sp :: .pc :: statusParts

theorem cycles_notMem_footprint (i : Instr) : .cycles ∉ footprint i := by
  cases i with
  | asl m | lsr m | rol m | ror m => cases m <;> simp [footprint, znParts, resultParts]
  | _ => simp [footprint, znParts, addParts, compareParts, statusParts]

/-- An instruction changes its parts and the countdown, and leaves a countdown of at most 8 when
UNDOC_CYCLES is in its range. -/
structure RunsWithin (parts : List Part) (s t : State) : Prop where
  changes : ChangesOnly (.cycles :: parts) s t
  countdown : s.platform.wf = true → t.cycles ≤ 8

namespace RunsWithin

/-- After the mode routine, an operation that leaves the countdown at the base cost. -/
theorem of_address {parts : List Part} {s t : State} {base : Nat} {m : Mode}
    (hbase : s.platform.wf = true → base ≤ 8) (h : ChangesOnly parts (s.address base m).1 t)
    (hcycles : .cycles ∉ parts := by exact cycles_notMem_footprint _) : RunsWithin parts s t where
  changes := (ChangesOnly.address s base m).trans h
  countdown hwf := by
    have hkept : t.cycles = (s.address base m).1.cycles := h.same .cycles hcycles
    have hloaded : (s.address base m).1.cycles = base := resolve_cycles m _
    rw [hkept, hloaded]
    exact hbase hwf

theorem implied {parts : List Part} {s : State} {base : Nat} {op : State → State}
    (hbase : base ≤ 8) (h : ∀ u, ChangesOnly parts u (op u))
    (hcycles : .cycles ∉ parts := by exact cycles_notMem_footprint _) :
    RunsWithin parts s (s.implied base op) :=
  of_address (m := .imp) (fun _ => hbase) (h _) hcycles

theorem storing (s : State) (m : Mode) (v : Byte) : RunsWithin [.mem] s (s.storing m v) :=
  of_address (fun _ => storeCycles_le m) (ChangesOnly.memWrite _ _ v) (by decide)

/-- An instruction that reads its operand may pay one cycle more than its base cost. -/
theorem reading {parts : List Part} {s : State} {base : Nat} {signal : Bool} {m : Mode}
    {use : State → Byte → State} (hbase : base ≤ 7)
    (h : ∀ u v, ChangesOnly parts u (use u v))
    (hcycles : .cycles ∉ parts := by exact cycles_notMem_footprint _) :
    RunsWithin parts s (s.reading base signal m use) := by
  rw [reading_eq]
  have huse := h ((operand m (resolve m s).1).2.startCycles base) (operandByte m s)
  constructor
  · have hstart := ((ChangesOnly.resolve m s).trans (ChangesOnly.operand m _)).trans
      (ChangesOnly.startCycles _ base)
    exact ((hstart.trans huse).trans (ChangesOnly.penalty _ _)).mono (by simp)
  · intro _
    have hused : (use _ _).cycles = base := huse.same .cycles hcycles
    have hextra := Bool.toNat_le (signal && (resolve m s).2)
    rw [penalty_cycles, hused]
    omega

theorem shifting (s : State) (m : Mode) (out : Byte → Bool) (result : Byte → Bool → Byte) :
    RunsWithin (.flag .c :: (znParts ++ resultParts m)) s (s.shifting m out result) :=
  reading (modifyCycles_le m)
    (fun u v => ((ChangesOnly.withFlag u .c _).trans (ChangesOnly.setZN _ _)).trans
      (ChangesOnly.writeBack m _ _))
    (by unfold resultParts; split <;> decide)

/-- A branch costs at most two cycles more than its base cost (45_branch_jump.md R191). -/
theorem branch (s : State) (cond : Bool) (b : Byte) : RunsWithin [.pc] s (s.branch cond b) := by
  cases cond with
  | false =>
    exact of_address (fun _ => by decide) (ChangesOnly.refl _ (s.address 2 (.rel b)).1) (by decide)
  | true =>
    rw [branch_taken]
    constructor
    · refine ChangesOnly.of_bus_eq (fun p hp => ?_) ⟨rfl, rfl, rfl, rfl, rfl⟩ rfl rfl
      cases p with
      | cycles | pc => exact absurd (by decide) hp
      | _ => rfl
    · intro _
      have hextra := Bool.toNat_le (hi (s.pc + sext16 b) != hi s.pc)
      dsimp only
      omega

/-- A trap slot does nothing at its cost: the Implied mode grants no extra cycle
(30_encoding.md R87). -/
theorem trap (s : State) (o : Byte) : Completes (.trap o) s (RunsWithin [] s) := by
  have hexec : exec (.trap o) s =
      .next ((s.address (trapCycles s.platform o) .imp).1.penalty (opSignal o && false)) := rfl
  rw [Bool.and_false] at hexec
  exact ⟨_, hexec, of_address (fun hwf => trapCycles_le hwf o) (ChangesOnly.refl [] _)
    (by decide)⟩

end RunsWithin

open ChangesOnly RunsWithin in
/-- Every instruction runs to a next state, inside its footprint. -/
theorem exec_runsWithin (i : Instr) (s : State) : Completes i s (RunsWithin (footprint i) s) := by
  cases i with
  | lda m => exact ⟨_, rfl, reading (readCycles_le m) fun u v => (setA u v).trans (setZN _ v)⟩
  | ldx m => exact ⟨_, rfl, reading (readCycles_le m) fun u v => (setX u v).trans (setZN _ v)⟩
  | ldy m => exact ⟨_, rfl, reading (readCycles_le m) fun u v => (setY u v).trans (setZN _ v)⟩
  | sta m | stx m | sty m => exact ⟨_, rfl, storing s m _⟩
  | tax | tsx | inx | dex =>
    exact ⟨_, rfl, implied (by decide) fun u => (setX u _).trans (setZN _ _)⟩
  | tay | iny | dey => exact ⟨_, rfl, implied (by decide) fun u => (setY u _).trans (setZN _ _)⟩
  | txa | tya => exact ⟨_, rfl, implied (by decide) fun u => (setA u _).trans (setZN _ _)⟩
  | txs => exact ⟨_, rfl, implied (by decide) fun u => setSp u _⟩
  | adc m | sbc m => exact ⟨_, rfl, reading (readCycles_le m) fun u _ => addWithCarry u _⟩
  | sbcEb b => exact ⟨_, rfl, reading (by decide) fun u _ => addWithCarry u _⟩
  | and m | ora m | eor m =>
    exact ⟨_, rfl, reading (readCycles_le m) fun u _ => (setA u _).trans (setZN _ _)⟩
  | bit m =>
    exact ⟨_, rfl, reading (readCycles_le m) fun u _ =>
      ((withFlag u .z _).trans (withFlag _ .n _)).trans (withFlag _ .v _)⟩
  | cmp m | cpx m | cpy m => exact ⟨_, rfl, reading (readCycles_le m) fun u v => compare u _ v⟩
  | inc m | dec m =>
    exact ⟨_, rfl, reading (modifyCycles_le m) fun u _ => (memWrite u _ _).trans (setZN _ _)⟩
  | asl m | lsr m | rol m | ror m => exact ⟨_, rfl, shifting s m _ _⟩
  | bcc b | bcs b | beq b | bne b | bmi b | bpl b | bvc b | bvs b => exact ⟨_, rfl, branch s _ b⟩
  | jmp m => exact ⟨_, rfl, of_address (fun _ => jumpCycles_le m) (setPc _ _)⟩
  | jsr w => exact ⟨_, rfl, of_address (fun _ => by decide) ((pushWord _ _).trans (setPc _ _))⟩
  | rts => exact ⟨_, rfl, implied (by decide) fun u => (popWord u).trans (setPc _ _)⟩
  | pha | php => exact ⟨_, rfl, implied (by decide) fun u => push u _⟩
  | pla =>
    exact ⟨_, rfl, implied (by decide) fun u => ((pop u).trans (setA _ _)).trans (setZN _ _)⟩
  | plp => exact ⟨_, rfl, implied (by decide) popP⟩
  | clc | cld | cli | clv | sec | sed | sei =>
    exact ⟨_, rfl, implied (by decide) fun u => withFlag u _ _⟩
  | nop => exact ⟨_, rfl, implied (by decide) (refl [])⟩
  | brk => exact ⟨_, rfl, implied (by decide) fun u => (setPc u _).trans (enterInterrupt _ _ _)⟩
  | rti => exact ⟨_, rfl, implied (by decide) returnFromInterrupt⟩
  | trap o => exact trap s o

/-- What `exec` answers, it answers inside the footprint. -/
theorem runsWithin_of_exec {i : Instr} {s t : State} (h : exec i s = .next t) :
    RunsWithin (footprint i) s t := by
  obtain ⟨u, hu, hruns⟩ := exec_runsWithin i s
  cases h.symm.trans hu
  exact hruns

/-- Whether the rules let an instruction write a part (10_state.md R21 to R34): none writes Break. -/
def mayWrite (i : Instr) : Part → Bool
  | .a => decide (i.op ∈ [.lda, .pla, .txa, .tya, .adc, .sbc, .sbcEb, .and, .ora, .eor] ∨
      (i.op ∈ [.asl, .lsr, .rol, .ror] ∧ i.mode = .imp))
  | .x => decide (i.op ∈ [.ldx, .tax, .tsx, .inx, .dex])
  | .y => decide (i.op ∈ [.ldy, .tay, .iny, .dey])
  | .sp => decide (i.op ∈ [.txs, .pha, .php, .pla, .plp, .jsr, .rts, .brk, .rti])
  | .pc => decide (i.op ∈ [.jmp, .jsr, .rts, .rti, .brk] ∨ i.mode.format = .rel)
  | .mem => decide (i.op ∈ [.sta, .stx, .sty, .inc, .dec, .pha, .php, .jsr, .brk] ∨
      (i.op ∈ [.asl, .lsr, .rol, .ror] ∧ i.mode ≠ .imp))
  | .cycles => true
  | .flag .b => false
  | .flag .u => decide (i.op ∈ [.plp, .rti])
  | .flag .d => decide (i.op ∈ [.sed, .cld, .plp, .rti])
  | .flag .i => decide (i.op ∈ [.sei, .cli, .brk, .plp, .rti])
  | .flag .v => decide (i.op ∈ [.adc, .sbc, .sbcEb, .bit, .clv, .plp, .rti])
  | .flag .c => decide (i.op ∈ [.adc, .sbc, .sbcEb, .cmp, .cpx, .cpy, .asl, .rol, .lsr, .ror, .clc,
      .sec, .plp, .rti])
  | .flag .z | .flag .n => decide (i.op ∈ [.lda, .ldx, .ldy, .tax, .tay, .tsx, .txa, .tya, .pla, .adc,
      .sbc, .sbcEb, .and, .ora, .eor, .bit, .cmp, .cpx, .cpy, .inc, .dec, .inx, .iny, .dex, .dey,
      .asl, .lsr, .rol, .ror, .plp, .rti])

/-- The footprints stay inside what the rules allow. -/
theorem footprint_all_mayWrite (i : Instr) : (footprint i).all (mayWrite i) = true := by
  cases i with
  | asl m | lsr m | rol m | ror m => cases m <;> rfl
  | _ => rfl

/-- A part that an instruction changed is one the rules let it write. -/
theorem mayWrite_of_changed {i : Instr} {s t : State} (h : exec i s = .next t) {p : Part}
    (hp : ¬ p.Same s t) : mayWrite i p = true := by
  rcases List.mem_cons.mp ((runsWithin_of_exec h).changes.mem_of_changed hp) with rfl | hmem
  · rfl
  · exact List.all_eq_true.mp (footprint_all_mayWrite i) p hmem

/-- PLP and RTI leave Unused set (46_stack_flags_system.md R211). -/
theorem unused_of_popsStatus {i : Instr} {s t : State} (h : exec i s = .next t)
    (hi : i.op ∈ [.plp, .rti]) : t.flag .u = true := by
  cases i with
  | plp =>
    cases h
    exact getFlag_poppedStatus _ _ .u
  | rti =>
    cases h
    exact getFlag_poppedStatus _ _ .u
  | _ => exact absurd hi (by simp [Instr.op])

theorem break_of_exec {i : Instr} {s t : State} (h : exec i s = .next t) :
    t.flag .b = s.flag .b :=
  Decidable.byContradiction fun hb =>
    Bool.false_ne_true (mayWrite_of_changed h (p := .flag .b) hb)

/-- Unused is as before or set. -/
theorem unused_of_exec {i : Instr} {s t : State} (h : exec i s = .next t) :
    t.flag .u = s.flag .u ∨ t.flag .u = true := by
  by_cases hu : t.flag .u = s.flag .u
  · exact .inl hu
  · exact .inr (unused_of_popsStatus h (of_decide_eq_true (mayWrite_of_changed h (p := .flag .u) hu)))

theorem surroundings_of_exec {i : Instr} {s t : State} (h : exec i s = .next t) :
    SurroundingsKept s t := (runsWithin_of_exec h).changes.surroundings

theorem memoryKept_of_mem_eq {s t : State} (h : t.mem = s.mem) : MemoryKept s t := fun a => by
  rw [h]

/-- Bus transactions keep memory in canonical form. -/
theorem mem_wf_of_traced {s t : State} (h : Traced s t) (hwf : s.mem.wf = true) :
    t.mem.wf = true := by
  obtain ⟨-, ops, -, hmem⟩ := h
  rw [hmem]
  exact replay_wf s.platform ops hwf

end Sys2Proof.Machine
end

section
/-! SUPPORT. What an event and a step can do, said once (40_step_and_dispatch.md R100,
60_exceptions.md R241 to R248, 70_reset_and_hazards.md R270, R271). -/

namespace Sys2Proof.Machine

/-! ### The cases of a tick and of an event -/

theorem tick_cases {s t : State} (h : s.tick = .next t) :
    (s.cycles ≠ 0 ∧ t = s.countTick) ∨
      (s.cycles = 0 ∧ ∃ u, exec s.fetchInstr.1 s.fetchInstr.2 = .next u ∧ t = u.countTick) := by
  unfold State.tick State.runInstr at h
  split at h
  · next hzero =>
    obtain ⟨u, hu, -⟩ := exec_runsWithin s.fetchInstr.1 s.fetchInstr.2
    rw [hu] at h
    cases h
    exact .inr ⟨hzero, u, hu, rfl⟩
  · next hzero =>
    cases h
    exact .inl ⟨hzero, rfl⟩

theorem event_cases {e : Event} {s t : State} (h : event e s = .next t) :
    (e = .reset ∧ t = s.resetEvent) ∨
      (s.hasReset = true ∧
        ((e = .tick ∧ s.tick = .next t) ∨ (e = .irq ∧ t = s.irq) ∨ (e = .nmi ∧ t = s.nmi))) := by
  unfold event at h
  split at h
  · cases h; exact .inl ⟨rfl, rfl⟩
  · next hr => exact .inr ⟨hr, .inl ⟨rfl, h⟩⟩
  · next hr => cases h; exact .inr ⟨hr, .inr (.inl ⟨rfl, rfl⟩)⟩
  · next hr => cases h; exact .inr ⟨hr, .inr (.inr ⟨rfl, rfl⟩)⟩
  all_goals cases h

/-! ### The control state after each event -/

/-- The host's calls and the platform are as before, the core counts as reset, and `counted` more ticks
are in the total. -/
def BooksKept (counted : Nat) (s t : State) : Prop :=
  t.hostCalls = s.hostCalls ∧ t.platform = s.platform ∧ t.hasReset = true ∧
    t.totalCycles = s.totalCycles + counted

theorem resetEvent_books (s : State) : BooksKept 0 s s.resetEvent := ⟨rfl, rfl, rfl, rfl⟩

theorem irq_books {s : State} (hr : s.hasReset = true) : BooksKept 0 s s.irq := by
  unfold State.irq
  split
  · exact ⟨rfl, rfl, hr, rfl⟩
  · simp [BooksKept, hr]

theorem nmi_books {s : State} (hr : s.hasReset = true) : BooksKept 0 s s.nmi := by
  simp [BooksKept, State.nmi, hr]

theorem tick_books {s t : State} (hr : s.hasReset = true) (h : s.tick = .next t) :
    BooksKept 1 s t := by
  rcases tick_cases h with ⟨-, rfl⟩ | ⟨-, u, hu, rfl⟩
  · exact ⟨rfl, rfl, hr, rfl⟩
  · obtain ⟨htotal, -, hcalls, hreset, hplatform⟩ := surroundings_of_exec hu
    obtain ⟨pc, opcode, bus, hfetch⟩ := fetchInstr_keeps s
    rw [hfetch] at htotal hcalls hreset hplatform
    exact ⟨hcalls, hplatform, hreset.trans hr, congrArg (· + 1) htotal⟩

theorem event_books {e : Event} {s t : State} (h : event e s = .next t) :
    BooksKept (if e = .tick then 1 else 0) s t := by
  rcases event_cases h with ⟨rfl, rfl⟩ | ⟨hr, ⟨rfl, ht⟩ | ⟨rfl, rfl⟩ | ⟨rfl, rfl⟩⟩
  · exact resetEvent_books s
  · exact tick_books hr ht
  · exact irq_books hr
  · exact nmi_books hr

/-! ### The invariant after each event -/

/-- The invariant speaks of memory, the platform, the first-reset record, the status and the countdown
alone. -/
theorem inv_congr {s t : State} (hs : Inv s) (hmem : t.mem = s.mem) (hplatform : t.platform = s.platform)
    (hreset : t.hasReset = s.hasReset) (hp : t.p = s.p) (hcycles : t.cycles ≤ s.cycles) : Inv t where
  memory := hmem ▸ hs.memory
  platform := hplatform ▸ hs.platform
  unused hr := (flag_congr hp .u).trans (hs.unused (hreset ▸ hr))
  noBreak hr := (flag_congr hp .b).trans (hs.noBreak (hreset ▸ hr))
  countdown hr := hcycles.trans (hs.countdown (hreset ▸ hr))

theorem exec_inv {i : Instr} {s t : State} (hs : Inv s) (h : exec i s = .next t) : Inv t := by
  obtain ⟨-, -, -, hreset, hplatform⟩ := surroundings_of_exec h
  have hruns := runsWithin_of_exec h
  constructor
  case memory => exact mem_wf_of_traced hruns.changes.traced hs.memory
  case platform => rw [hplatform]; exact hs.platform
  case unused =>
    intro hr
    rcases unused_of_exec h with hu | hu
    · rw [hu]; exact hs.unused (hreset ▸ hr)
    · exact hu
  case noBreak =>
    intro hr
    rw [break_of_exec h]
    exact hs.noBreak (hreset ▸ hr)
  case countdown => exact fun _ => hruns.countdown hs.platform

/-- An interrupt entry sets Interrupt-disable and no other flag (60_exceptions.md R242, R243). -/
theorem enterInterrupt_inv {s : State} (hs : Inv s) (vector : Word) {n : Nat} (hn : n ≤ 8) :
    Inv { s.enterInterrupt false vector with cycles := n } := by
  have hflag : ∀ f, f ≠ .i → (s.enterInterrupt false vector).flag f = s.flag f := fun f hf => by
    rw [State.flag, enterInterrupt_p, getFlag_setFlag, if_neg hf, State.flag]
  constructor
  case memory => exact enterInterrupt_wf s false vector hs.memory
  case platform => exact (enterInterrupt_platform s false vector).symm ▸ hs.platform
  case unused =>
    exact fun hr => (hflag .u (by decide)).trans
      (hs.unused ((enterInterrupt_hasReset s false vector).symm.trans hr))
  case noBreak =>
    exact fun hr => (hflag .b (by decide)).trans
      (hs.noBreak ((enterInterrupt_hasReset s false vector).symm.trans hr))
  case countdown => exact fun _ => hn

theorem resetEvent_inv {s : State} (hs : Inv s) : Inv s.resetEvent := by
  have hflag : ∀ f, s.resetEvent.flag f = getFlag 0x20 f := fun _ => rfl
  exact ⟨hs.memory, hs.platform, fun _ => (hflag .u).trans (by decide),
    fun _ => (hflag .b).trans (by decide), fun _ => Nat.le_refl 8⟩

theorem irq_inv {s : State} (hs : Inv s) : Inv s.irq := by
  unfold State.irq
  split
  · exact hs
  · exact enterInterrupt_inv hs 0xFFFE (by decide)

theorem tick_inv {s t : State} (hs : Inv s) (h : s.tick = .next t) : Inv t := by
  rcases tick_cases h with ⟨-, rfl⟩ | ⟨-, u, hu, rfl⟩
  · exact inv_congr hs rfl rfl rfl rfl (Nat.sub_le _ 1)
  · obtain ⟨pc, opcode, bus, hfetch⟩ := fetchInstr_keeps s
    have hfetched : Inv s.fetchInstr.2 := by
      rw [hfetch]
      exact inv_congr hs rfl rfl rfl rfl (Nat.le_refl _)
    exact inv_congr (exec_inv hfetched hu) rfl rfl rfl rfl (Nat.sub_le _ 1)

theorem event_inv {e : Event} {s t : State} (hs : Inv s) (h : event e s = .next t) : Inv t := by
  rcases event_cases h with ⟨-, rfl⟩ | ⟨-, ⟨-, ht⟩ | ⟨-, rfl⟩ | ⟨-, rfl⟩⟩
  · exact resetEvent_inv hs
  · exact tick_inv hs ht
  · exact irq_inv hs
  · exact enterInterrupt_inv hs 0xFFFA (by decide)

end Sys2Proof.Machine
end

section
/-! The obligations about the state (10_state.md). -/

namespace Sys2Proof.Machine

/-- Settles O59: the invariant does not see the host's calls, and every event keeps it. -/
theorem invariantKept : Obligations.InvariantKept := by
  intro s t hs h
  have hnext : Inv s.nextEvent.2 := by
    rw [nextEvent_eq]
    exact inv_congr hs rfl rfl rfl rfl (Nat.le_refl _)
  exact event_inv hnext h

/-- Settles O13: taking the host's next call drops it from the list, and every event keeps the books. -/
theorem stepKeepsTheBooks : Obligations.StepKeepsTheBooks := by
  intro s t h
  have hbooks := event_books h
  rw [nextEvent_eq] at hbooks
  exact hbooks

/-- Settles O56: a changed part is in the instruction's footprint, and the footprints are inside the
lists. -/
theorem registerAndMemoryWriters : Obligations.RegisterAndMemoryWriters := by
  intro i s t h
  have writes : ∀ p : Part, ¬ p.Same s t → mayWrite i p = true := fun _ => mayWrite_of_changed h
  exact ⟨fun ha => of_decide_eq_true (writes .a ha), fun hx => of_decide_eq_true (writes .x hx),
    fun hy => of_decide_eq_true (writes .y hy), fun hsp => of_decide_eq_true (writes .sp hsp),
    fun hpc => of_decide_eq_true (writes .pc hpc),
    fun hmem => of_decide_eq_true (writes .mem fun heq => hmem (memoryKept_of_mem_eq heq))⟩

/-- Settles O57: a changed flag is in the instruction's footprint, and no footprint holds Break. -/
theorem flagWriters : Obligations.FlagWriters := by
  intro i s t h
  have writes : ∀ f : Flag, t.flag f ≠ s.flag f → mayWrite i (.flag f) = true :=
    fun _ hf => mayWrite_of_changed h hf
  refine ⟨break_of_exec h, fun hu => ?_, fun hd => of_decide_eq_true (writes .d hd),
    fun hi => of_decide_eq_true (writes .i hi), fun hv => of_decide_eq_true (writes .v hv),
    fun hc => of_decide_eq_true (writes .c hc), ?_⟩
  · have hpops : i.op ∈ [.plp, .rti] := of_decide_eq_true (writes .u hu)
    exact ⟨hpops, unused_of_popsStatus h hpops⟩
  · rintro (hz | hn)
    · exact of_decide_eq_true (writes .z hz)
    · exact of_decide_eq_true (writes .n hn)

/-- A read of the test platform's memory, when nothing is in it, gives the fill byte. -/
theorem readValue_emptyTestPlatform {s : State} (hmem : s.mem = [])
    (hplatform : s.platform = Config.testPlatform) (a : Word) :
    s.readValue a = Config.memoryFill := by
  have hplain : plainAt s.platform a = true := by
    rw [hplatform]
    exact plainAt_of_ramAt (ramAt_testPlatform a)
  rw [readValue_plain hplain, hmem, Memory.byteAt]

/-- Settles O15: both bytes of the vector are the fill byte, and `Reset` sets every other field. -/
theorem resetStateIsTheResetEvents : Obligations.ResetStateIsTheResetEvents := by
  intro s hmem hbus hcalls htotal hplatform
  have hlow := readValue_emptyTestPlatform hmem hplatform 0xFFFC
  have hhigh : (s.memRead 0xFFFC).2.readValue 0xFFFD = Config.memoryFill :=
    readValue_emptyTestPlatform (s := (s.memRead 0xFFFC).2) hmem hplatform 0xFFFD
  simp only [State.resetEvent, read16_eq, State.memRead] at hhigh ⊢
  rw [hhigh, hlow, hmem, hbus, hcalls, htotal, hplatform]
  rfl

/-- Settles O58: `State.reset` lists no memory, and its status byte and countdown are literals. -/
theorem invariantAtReset : Obligations.InvariantAtReset :=
  ⟨reset_mem_wf, rfl, fun _ => rfl, fun _ => rfl, fun _ => Nat.le_refl 8⟩

end Sys2Proof.Machine
end

section
/-! SUPPORT. Which device handles an address, and what reads, writes and fetches do there
(20_memory.md R52, R53, R63). -/

namespace Sys2Proof.Machine

/-- Both ends of a registration are inclusive (R52). -/
theorem deviceCovers_iff (d : Device) (a : Word) :
    deviceCovers d a = true ↔ d.first.toNat ≤ a.toNat ∧ a.toNat ≤ d.last.toNat := by
  simp only [deviceCovers, Bool.and_eq_true, decide_eq_true_eq, BitVec.le_def]

theorem not_deviceCovers_iff (d : Device) (a : Word) :
    ¬ deviceCovers d a = true ↔ a.toNat < d.first.toNat ∨ d.last.toNat < a.toNat := by
  rw [deviceCovers_iff]
  omega

/-- No device covers an address exactly when none handles it. -/
theorem deviceAt_eq_none_iff (p : Platform) (a : Word) :
    deviceAt p a = none ↔ ∀ d ∈ p.devices, a.toNat < d.first.toNat ∨ d.last.toNat < a.toNat := by
  simp only [deviceAt, List.find?_eq_none, not_deviceCovers_iff]

theorem ramAt_unmapped {p : Platform} {a : Word} (h : deviceAt p a = none) : ramAt p a = false := by
  rw [ramAt, h]

/-- A write that plain memory does not take only enters the bus trace (R53, R63). -/
theorem memWrite_of_not_ramAt {s : State} {a : Word} (h : ramAt s.platform a = false) (v : Byte) :
    s.memWrite a v = { s with bus := .write a v :: s.bus } := by
  simp only [State.memWrite, h, Bool.false_eq_true, if_false]

/-- What plain or read-only memory answers right after a bus write. -/
theorem readValue_memWrite {s : State} {b : Word} (hb : plainAt s.platform b = true) (a : Word)
    (v : Byte) :
    (s.memWrite a v).readValue b = if a = b ∧ ramAt s.platform a = true then v else s.readValue b := by
  rw [readValue_plain (s := s.memWrite a v) hb, readValue_plain hb]
  exact byteAt_replay_write s.platform [] s.mem a b v

/-- The byte 0x00 in the opcode place is BRK, which has no operand byte (30_encoding.md R84). -/
theorem fetchInstr_brk {s : State} (h : s.readValue s.pc = 0x00) : s.fetchInstr.1 = .brk := by
  have hopcode : s.fetchOpcode.opcode = 0x00 := h
  have hlength : (entry 0x00).format.operandBytes = 0 := rfl
  simp only [State.fetchInstr, hopcode, hlength]
  rfl

end Sys2Proof.Machine
end

section
/-! SUPPORT. Every operation of the machine acts on memory through bus transactions alone, and each
read among them returns what its device then holds: said once for each shared operation, each
instruction and each event (20_memory.md R53, R63 to R67). `Traced` says the first half; the bytes the
reads returned need the order of the transactions too, so the two halves are carried together. -/

namespace Sys2Proof.Machine

/-! ### What a trace says about its reads -/

/-- The byte a read may return when memory holds `m`: memory's own at a plain or read-only address,
0x00 at an unmapped one, any byte at another device (20_memory.md R53, R63, R71). -/
def Answers (p : Platform) (m : Memory) (a : Word) (v : Byte) : Prop :=
  (plainAt p a = true → v = m.byteAt a.toNat) ∧ (deviceAt p a = none → v = 0x00)

/-- Every read of a list of transactions, newest first, returned what its device held once the earlier
ones were done. -/
def ReadsAnswered (p : Platform) (m : Memory) : List BusOp → Prop
  | [] => True
  | .read a v :: earlier => Answers p (replay p earlier m) a v ∧ ReadsAnswered p m earlier
  | .write _ _ :: earlier => ReadsAnswered p m earlier

theorem readValue_answers (s : State) (a : Word) : Answers s.platform s.mem a (s.readValue a) :=
  ⟨readValue_plain, readValue_unmapped⟩

theorem replay_append (p : Platform) (later earlier : List BusOp) (m : Memory) :
    replay p (later ++ earlier) m = replay p later (replay p earlier m) := List.foldr_append

theorem readsAnswered_append {p : Platform} {m : Memory} {later earlier : List BusOp}
    (hlater : ReadsAnswered p (replay p earlier m) later) (hearlier : ReadsAnswered p m earlier) :
    ReadsAnswered p m (later ++ earlier) := by
  induction later with
  | nil => exact hearlier
  | cons op rest ih =>
    cases op with
    | read a v =>
      obtain ⟨hread, hrest⟩ := hlater
      rw [← replay_append] at hread
      exact ⟨hread, ih hrest⟩
    | write a v => exact ih hlater

/-- A read anywhere in such a list was answered. -/
theorem answers_of_readsAnswered {p : Platform} {m : Memory} {later earlier : List BusOp} {a : Word}
    {v : Byte} (h : ReadsAnswered p m (later ++ .read a v :: earlier)) :
    Answers p (replay p earlier m) a v := by
  induction later with
  | nil => exact h.1
  | cons op rest ih =>
    cases op with
    | read b w => exact ih h.2
    | write b w => exact ih h

/-! ### Runs of transactions whose reads are answered -/

/-- `t` is `s` after some bus transactions, as `Traced` says, with every read answered. -/
def Transacts (s t : State) : Prop :=
  t.platform = s.platform ∧ ∃ ops, t.bus = ops ++ s.bus ∧ t.mem = replay s.platform ops s.mem ∧
    ReadsAnswered s.platform s.mem ops

namespace Transacts

/-- An update that leaves the platform, the bus trace and memory alone makes no transaction. -/
theorem quiet {s t : State} (hplatform : t.platform = s.platform) (hbus : t.bus = s.bus)
    (hmem : t.mem = s.mem) : Transacts s t := ⟨hplatform, [], hbus, hmem, trivial⟩

theorem traced {s t : State} (h : Transacts s t) : Traced s t := by
  obtain ⟨hplatform, ops, hbus, hmem, -⟩ := h
  exact ⟨hplatform, ops, hbus, hmem⟩

theorem trans {s t u : State} (h : Transacts s t) (h' : Transacts t u) : Transacts s u := by
  obtain ⟨hplatform, ops, hbus, hmem, hreads⟩ := h
  obtain ⟨hplatform', ops', hbus', hmem', hreads'⟩ := h'
  rw [hplatform, hmem] at hmem' hreads'
  refine ⟨hplatform'.trans hplatform, ops' ++ ops, ?_, ?_, readsAnswered_append hreads' hreads⟩
  · rw [hbus', hbus, List.append_assoc]
  · rw [hmem', replay_append]

/-- Only the platform, the bus trace and memory take part. -/
theorem congr {s t u : State} (h : Transacts s t) (hplatform : u.platform = t.platform)
    (hbus : u.bus = t.bus) (hmem : u.mem = t.mem) : Transacts s u :=
  h.trans (quiet hplatform hbus hmem)

theorem setPc (s : State) (w : Word) : Transacts s { s with pc := w } := quiet rfl rfl rfl

theorem withFlag (s : State) (f : Flag) (v : Bool) : Transacts s (s.withFlag f v) :=
  quiet rfl rfl rfl

/-! ### The bus and the stack -/

theorem memRead (s : State) (a : Word) : Transacts s (s.memRead a).2 :=
  ⟨rfl, [.read a (s.readValue a)], rfl, rfl, readValue_answers s a, trivial⟩

theorem memWrite (s : State) (a : Word) (v : Byte) : Transacts s (s.memWrite a v) :=
  ⟨rfl, [.write a v], rfl, rfl, trivial⟩

theorem read16 (s : State) (u w : Word) : Transacts s (s.read16 u w).2 :=
  (memRead s u).trans (memRead _ w)

theorem push (s : State) (v : Byte) : Transacts s (s.push v) :=
  (memWrite s _ v).congr rfl rfl rfl

theorem pop (s : State) : Transacts s s.pop.2 :=
  (quiet (t := { s with sp := s.sp + 1 }) rfl rfl rfl).trans (memRead _ _)

theorem pushWord (s : State) (w : Word) : Transacts s (s.pushWord w) :=
  (push s _).trans (push _ _)

theorem popWord (s : State) : Transacts s s.popWord.2 := (pop s).trans (pop _)

theorem popP (s : State) : Transacts s s.popP := (pop s).congr rfl rfl rfl

theorem enterInterrupt (s : State) (b : Bool) (vector : Word) :
    Transacts s (s.enterInterrupt b vector) :=
  ((((pushWord s _).trans (push _ _)).trans (withFlag _ .i true)).trans (read16 _ _ _)).trans
    (setPc _ _)

theorem returnFromInterrupt (s : State) : Transacts s s.returnFromInterrupt :=
  ((popP s).trans (popWord _)).trans (setPc _ _)

/-! ### The fetch, the mode routine and the operand -/

theorem nextByte (s : State) : Transacts s s.nextByte.2 := (memRead s _).congr rfl rfl rfl

theorem fetchInstr (s : State) : Transacts s s.fetchInstr.2 := by
  have hopcode : Transacts s s.fetchOpcode := (nextByte s).congr rfl rfl rfl
  unfold State.fetchInstr
  dsimp only
  split
  · exact hopcode
  · exact hopcode.trans (nextByte _)
  · exact hopcode.trans ((nextByte _).trans (nextByte _))

theorem resolve (m : Mode) (s : State) : Transacts s (resolve m s).1 := by
  cases m with
  | ind _ | izx _ | izy _ => exact (read16 s _ _).congr rfl rfl rfl
  | _ => exact quiet rfl rfl rfl

theorem operand (m : Mode) (s : State) : Transacts s (operand m s).2 := by
  cases m with
  | imp | imm _ => exact quiet rfl rfl rfl
  | _ => exact (memRead s _).congr rfl rfl rfl

theorem writeBack (m : Mode) (s : State) (v : Byte) : Transacts s (writeBack m s v) := by
  cases m with
  | imp => exact quiet rfl rfl rfl
  | _ => exact memWrite s _ v

/-! ### The shapes of instructions -/

theorem address (s : State) (base : Nat) (m : Mode) : Transacts s (s.address base m).1 :=
  (quiet (t := s.startCycles base) rfl rfl rfl).trans (resolve m _)

theorem implied {s : State} {base : Nat} {op : State → State} (h : ∀ u, Transacts u (op u)) :
    Transacts s (s.implied base op) := (address s base .imp).trans (h _)

theorem storing (s : State) (m : Mode) (v : Byte) : Transacts s (s.storing m v) :=
  (address s _ m).trans (memWrite _ _ v)

theorem reading {s : State} {base : Nat} {signal : Bool} {m : Mode} {use : State → Byte → State}
    (h : ∀ u v, Transacts u (use u v)) : Transacts s (s.reading base signal m use) :=
  (((address s base m).trans (operand m _)).trans (h _ _)).congr rfl rfl rfl

theorem shifting (s : State) (m : Mode) (out : Byte → Bool) (result : Byte → Bool → Byte) :
    Transacts s (s.shifting m out result) :=
  reading fun u v =>
    (quiet (t := (u.withFlag .c (out v)).setZN _) rfl rfl rfl).trans (writeBack m _ _)

theorem branch (s : State) (cond : Bool) (b : Byte) : Transacts s (s.branch cond b) := by
  cases cond with
  | false => exact quiet rfl rfl rfl
  | true => exact quiet rfl rfl rfl

end Transacts

/-! ### Instructions and events -/

open Transacts in
/-- Every instruction runs to a next state, by bus transactions whose reads are answered. -/
theorem exec_transacts (i : Instr) (s : State) : Completes i s (Transacts s) := by
  cases i with
  | lda m | ldx m | ldy m | adc m | sbc m | sbcEb b | and m | ora m | eor m | bit m | cmp m | cpx m
  | cpy m => exact ⟨_, rfl, reading fun _ _ => quiet rfl rfl rfl⟩
  | inc m | dec m => exact ⟨_, rfl, reading fun u _ => (memWrite u _ _).congr rfl rfl rfl⟩
  | asl m | lsr m | rol m | ror m => exact ⟨_, rfl, shifting s m _ _⟩
  | sta m | stx m | sty m => exact ⟨_, rfl, storing s m _⟩
  | tax | tay | tsx | txa | txs | tya | inx | iny | dex | dey | nop
  | clc | cld | cli | clv | sec | sed | sei =>
    exact ⟨_, rfl, implied fun _ => quiet rfl rfl rfl⟩
  | bcc b | bcs b | beq b | bne b | bmi b | bpl b | bvc b | bvs b => exact ⟨_, rfl, branch s _ b⟩
  | jmp m => exact ⟨_, rfl, (address s _ m).trans (setPc _ _)⟩
  | jsr w => exact ⟨_, rfl, ((address s _ (.abs w)).trans (pushWord _ _)).trans (setPc _ _)⟩
  | rts => exact ⟨_, rfl, implied fun u => (popWord u).trans (setPc _ _)⟩
  | pha | php => exact ⟨_, rfl, implied fun u => push u _⟩
  | pla => exact ⟨_, rfl, implied fun u => (pop u).congr rfl rfl rfl⟩
  | plp => exact ⟨_, rfl, implied popP⟩
  | brk => exact ⟨_, rfl, implied fun u => (setPc u _).trans (enterInterrupt _ _ _)⟩
  | rti => exact ⟨_, rfl, implied returnFromInterrupt⟩
  | trap o => exact ⟨_, rfl, (address s _ .imp).congr rfl rfl rfl⟩

theorem transacts_of_exec {i : Instr} {s t : State} (h : exec i s = .next t) : Transacts s t := by
  obtain ⟨u, hu, htransacts⟩ := exec_transacts i s
  cases h.symm.trans hu
  exact htransacts

theorem transacts_of_tick {s t : State} (h : s.tick = .next t) : Transacts s t := by
  rcases tick_cases h with ⟨-, rfl⟩ | ⟨-, u, hu, rfl⟩
  · exact .quiet rfl rfl rfl
  · exact ((Transacts.fetchInstr s).trans (transacts_of_exec hu)).congr rfl rfl rfl

theorem irq_transacts (s : State) : Transacts s s.irq := by
  unfold State.irq
  split
  · exact .quiet rfl rfl rfl
  · exact (Transacts.enterInterrupt s false 0xFFFE).congr rfl rfl rfl

theorem transacts_of_event {e : Event} {s t : State} (h : event e s = .next t) : Transacts s t := by
  rcases event_cases h with ⟨-, rfl⟩ | ⟨-, ⟨-, ht⟩ | ⟨-, rfl⟩ | ⟨-, rfl⟩⟩
  · exact (Transacts.read16 s 0xFFFC 0xFFFD).congr rfl rfl rfl
  · exact transacts_of_tick ht
  · exact irq_transacts s
  · exact (Transacts.enterInterrupt s false 0xFFFA).congr rfl rfl rfl

/-- A step is the host's next event, and taking the call makes no transaction. -/
theorem transacts_of_step {s t : State} (h : step s = .next t) : Transacts s t := by
  have hnext : Transacts s s.nextEvent.2 := by
    rw [nextEvent_eq]
    exact .quiet rfl rfl rfl
  exact hnext.trans (transacts_of_event h)

end Sys2Proof.Machine
end

section
/-! The obligations about memory and the bus (20_memory.md). -/

namespace Sys2Proof.Machine

/-- Settles O23: whatever the event, a step is a run of bus transactions. -/
theorem memoryIsReplayOfTheTrace : Obligations.MemoryIsReplayOfTheTrace := by
  intro s t h
  obtain ⟨-, htrace⟩ := (transacts_of_step h).traced
  exact htrace

/-- Settles O24: the trace fixes the step's own transactions, and their reads are answered. -/
theorem readsReturnTheLastWrite : Obligations.ReadsReturnTheLastWrite := by
  intro s t later earlier a v h htrace
  obtain ⟨-, ops, hbus, -, hreads⟩ := transacts_of_step h
  have hops : ops = later ++ .read a v :: earlier :=
    List.append_cancel_right (hbus.symm.trans htrace)
  rw [hops] at hreads
  exact answers_of_readsAnswered hreads

/-- Settles O20: the search stops at the first registration that covers the address. -/
theorem firstRegistrationHandles : Obligations.FirstRegistrationHandles := by
  intro p before after d a hdevices hfirst hlast hbefore
  rw [deviceAt, List.find?_eq_some_iff_append]
  refine ⟨(deviceCovers_iff d a).mpr ⟨hfirst, hlast⟩, before, after, hdevices, fun e he => ?_⟩
  simpa using (not_deviceCovers_iff e a).mpr (hbefore e he)

/-- Settles O22: a read after a write sees the byte at that very address of plain memory only. -/
theorem plainMemoryReturnsLastWrite : Obligations.PlainMemoryReturnsLastWrite := by
  intro s a b v
  refine ⟨fun ha => ?_, fun hb hother => ?_⟩
  · rw [readValue_memWrite (plainAt_of_ramAt ha), if_pos ⟨rfl, ha⟩]
  · rw [readValue_memWrite hb, if_neg]
    rintro ⟨hab, ha⟩
    rcases hother with hne | hnotRam
    · exact hne hab
    · exact Bool.false_ne_true (hnotRam.symm.trans ha)

/-- Settles O21: no device handles the address, and the byte 0x00 it reads is BRK's opcode. -/
theorem unmappedReadsZeroDropsWrites : Obligations.UnmappedReadsZeroDropsWrites := by
  intro s a v huncovered
  have hnone : deviceAt s.platform a = none := (deviceAt_eq_none_iff _ _).mpr huncovered
  refine ⟨readValue_unmapped hnone, memWrite_of_not_ramAt (ramAt_unmapped hnone) v, ?_⟩
  rintro rfl
  exact fetchInstr_brk (readValue_unmapped hnone)

/-- Settles O25: the pop reads the location the push wrote, for `SP` is one lower and one higher. -/
theorem pushThenPop : Obligations.PushThenPop := by
  intro s v
  have hpage := stackAddr_toNat s.sp
  have hsp := s.sp.isLt
  have hback : s.sp - 1 + 1 = s.sp := BitVec.sub_add_cancel s.sp 1
  refine ⟨by omega, by omega, rfl, stored_one rfl, fun hram => ⟨?_, hback⟩⟩
  rw [pop_value, push_sp, hback, State.push]
  have hread := readValue_memWrite (plainAt_of_ramAt hram) (stackAddr s.sp) v
  rw [if_pos ⟨rfl, hram⟩] at hread
  exact hread

end Sys2Proof.Machine
end

section
/-! SUPPORT. The opcode map by opcode and the one by mnemonic agree, an instruction is the one its
opcode and operand bytes assemble to, and which byte lists decode to what (30_encoding.md R80 to R86). -/

namespace Sys2Proof

/-! ### The two opcode maps (R84 to R86) -/

theorem isSome_lookup_eq_contains {α β : Type} [BEq α] (l : List (α × β)) (k : α) :
    (l.lookup k).isSome = (l.map Prod.fst).contains k := by
  induction l with
  | nil => rfl
  | cons p l ih =>
    rw [List.map_cons, List.contains_cons, List.lookup_cons, ← ih]
    cases k == p.1 <;> rfl

/-- The operand forms of an operation are the ones its row of the map by mnemonic lists. -/
theorem map_fst_opcodesOf {op : Op} (h : op ≠ .trap) : (opcodesOf op).map Prod.fst = formats op := by
  cases op with
  | trap => exact absurd rfl h
  | _ => rfl

/-- The map by mnemonic read through the map by opcode. -/
theorem entry_of_mem_opcodesOf (op : Op) :
    ∀ p ∈ opcodesOf op, (entry p.2).op = op ∧ (entry p.2).format = p.1 := by
  cases op <;> decide

theorem entry_of_mem_trapSlots :
    ∀ o ∈ trapSlots, (entry o).op = .trap ∧ (entry o).format = .imp := by
  decide

/-- The map by opcode read through the map by mnemonic. -/
theorem lookup_entry (o : Byte) (h : (entry o).op ≠ .trap) :
    (opcodesOf (entry o).op).lookup (entry o).format = some o := by
  revert o
  decide

theorem trapSlots_contains_of_entry (o : Byte) (h : (entry o).op = .trap) :
    trapSlots.contains o = true := by
  revert o
  decide

/-- An opcode's format is one of its operation's forms. -/
theorem entry_format_mem (o : Byte) : (entry o).format ∈ formats (entry o).op := by
  revert o
  decide

/-! ### An instruction's opcode -/

theorem eq_trap_of_op {i : Instr} (h : i.op = .trap) : ∃ o, i = .trap o := by
  cases i with
  | trap o => exact ⟨o, rfl⟩
  | _ => cases h

/-- The well-formed terms are the ones with an opcode. -/
theorem opcode?_isSome (i : Instr) : i.opcode?.isSome = i.wf := by
  by_cases htrap : i.op = .trap
  · obtain ⟨o, rfl⟩ := eq_trap_of_op htrap
    simp only [Instr.opcode?, Instr.wf]
    cases trapSlots.contains o <;> rfl
  · rw [opcode?_eq_lookup htrap, wf_eq_contains htrap, isSome_lookup_eq_contains,
      map_fst_opcodesOf htrap]

theorem wf_of_opcode? {i : Instr} {o : Byte} (h : i.opcode? = some o) : i.wf = true := by
  rw [← opcode?_isSome, h, Option.isSome_some]

theorem exists_opcode?_of_wf {i : Instr} (h : i.wf = true) : ∃ o, i.opcode? = some o :=
  Option.isSome_iff_exists.mp ((opcode?_isSome i).trans h)

theorem opcode?_trap {o o' : Byte} (h : (Instr.trap o).opcode? = some o') :
    o' = o ∧ o ∈ trapSlots := by
  obtain ⟨hmem, rfl⟩ : o ∈ trapSlots ∧ o = o' := by simpa [Instr.opcode?] using h
  exact ⟨rfl, hmem⟩

/-- The table entry of an instruction's opcode has its operation and its format. -/
theorem entry_of_opcode? {i : Instr} {o : Byte} (h : i.opcode? = some o) :
    (entry o).op = i.op ∧ (entry o).format = i.mode.format := by
  by_cases htrap : i.op = .trap
  · obtain ⟨o', rfl⟩ := eq_trap_of_op htrap
    obtain ⟨rfl, hmem⟩ := opcode?_trap h
    exact entry_of_mem_trapSlots o hmem
  · rw [opcode?_eq_lookup htrap] at h
    obtain ⟨before, after, hrow, -⟩ := List.lookup_eq_some_iff.mp h
    exact entry_of_mem_opcodesOf i.op (i.mode.format, o) (by simp [hrow])

/-! ### Assembling an instruction from its bytes (R81, R83) -/

/-- When the format is one of the operation's forms, the instruction built has the mode it was given,
also where the constructor holds only the operand. -/
theorem mode_build {op : Op} {f : Format} (h : f ∈ formats op) (o b1 b2 : Byte) :
    (build op o (f.mode b1 b2) b1 (join b2 b1)).mode = f.mode b1 b2 := by
  cases op
  case lda | ldx | ldy | sta | stx | sty | adc | sbc | and | ora | eor | bit | cmp | cpx | cpy
    | inc | dec | asl | lsr | rol | ror | jmp => rfl
  all_goals
    obtain rfl := List.mem_singleton.mp h
    rfl

theorem mode_ofBytes (o b1 b2 : Byte) : (ofBytes o b1 b2).mode = (entry o).format.mode b1 b2 :=
  mode_build (entry_format_mem o) o b1 b2

/-- The instruction assembled from bytes has the opcode it was assembled from. -/
theorem opcode?_ofBytes (o b1 b2 : Byte) : (ofBytes o b1 b2).opcode? = some o := by
  by_cases htrap : (entry o).op = .trap
  · have heq : ofBytes o b1 b2 = .trap o := by rw [ofBytes, htrap, build]
    rw [heq, Instr.opcode?, if_pos (trapSlots_contains_of_entry o htrap)]
  · rw [opcode?_eq_lookup (by rwa [op_ofBytes]), op_ofBytes, mode_ofBytes, format_mode,
      lookup_entry o htrap]

theorem wf_ofBytes (o b1 b2 : Byte) : (ofBytes o b1 b2).wf = true :=
  wf_of_opcode? (opcode?_ofBytes o b1 b2)

theorem encode_ofBytes (o b1 b2 : Byte) :
    encode (ofBytes o b1 b2) = o :: [b1, b2].take (entry o).format.operandBytes := by
  rw [encode_of_opcode (opcode?_ofBytes o b1 b2), mode_ofBytes, bytes_mode]

theorem length_encode_ofBytes (o b1 b2 : Byte) :
    (encode (ofBytes o b1 b2)).length = 1 + (entry o).format.operandBytes := by
  have := operandBytes_le (entry o).format
  simp only [encode_ofBytes, List.length_cons, List.length_take, List.length_nil]
  omega

theorem length_bytes (m : Mode) : m.bytes.length = m.format.operandBytes := by
  cases m <;> rfl

/-- A mode is assembled from its own operand bytes. -/
theorem mode_format_bytes (m : Mode) :
    m.format.mode (m.bytes.getD 0 0) (m.bytes.getD 1 0) = m := by
  cases m
  case abs w | abx w | aby w | ind w => exact congrArg _ (join_hi_lo w)
  all_goals rfl

/-- An instruction is built from its operation, its mode and its operand bytes, and a trap from its
opcode as well. -/
theorem build_op_mode {i : Instr} {o : Byte} (htrap : i.op = .trap → i = .trap o) :
    build i.op o i.mode (i.mode.bytes.getD 0 0)
      (join (i.mode.bytes.getD 1 0) (i.mode.bytes.getD 0 0)) = i := by
  cases i
  case trap => exact (htrap rfl).symm
  case jsr w => exact congrArg Instr.jsr (join_hi_lo w)
  all_goals rfl

/-- An instruction is the one its opcode and operand bytes assemble to. -/
theorem ofBytes_of_opcode? {i : Instr} {o : Byte} (h : i.opcode? = some o) :
    ofBytes o (i.mode.bytes.getD 0 0) (i.mode.bytes.getD 1 0) = i := by
  obtain ⟨hop, hformat⟩ := entry_of_opcode? h
  rw [ofBytes, hop, hformat, mode_format_bytes]
  refine build_op_mode fun htrap => ?_
  obtain ⟨o', rfl⟩ := eq_trap_of_op htrap
  rw [(opcode?_trap h).1]

/-! ### What decodes (R82) -/

/-- An opcode followed by its mode's operand bytes decodes, and what follows them is left over. -/
theorem decode_operands {o : Byte} {operands : List Byte}
    (h : operands.length = (entry o).format.operandBytes) (rest : List Byte) :
    decode (o :: (operands ++ rest)) =
      .ok (ofBytes o (operands.getD 0 0) (operands.getD 1 0), rest) := by
  have hle := operandBytes_le (entry o).format
  match operands, h with
  | [], h | [_], h | [_, _], h => simp [decode, ← h]
  | _ :: _ :: _ :: _, h => simp at h; omega

/-- What decodes is an opcode, its mode's operand bytes and the rest. -/
theorem decode_inversion {bytes rest : List Byte} {i : Instr} (h : decode bytes = .ok (i, rest)) :
    ∃ o b1 b2, i = ofBytes o b1 b2 ∧
      bytes = o :: ([b1, b2].take (entry o).format.operandBytes ++ rest) := by
  unfold decode at h
  split at h
  case h_1 => cases h
  case h_2 o tail =>
    split at h
    case h_1 hn => cases h; exact ⟨o, 0, 0, rfl, by simp [hn]⟩
    case h_2 b1 _ hn => cases h; exact ⟨o, b1, 0, rfl, by simp [hn]⟩
    case h_3 b1 b2 _ hn => cases h; exact ⟨o, b1, b2, rfl, by simp [hn]⟩
    case h_4 => cases h

end Sys2Proof
end

section
/-! The obligations about the encoding (30_encoding.md). -/

namespace Sys2Proof

/-- Settles O2: the table entry of the instruction's opcode has its format, so the decoder takes its
operand bytes, and they assemble to the instruction again. -/
theorem decodeAfterEncode : Obligations.DecodeAfterEncode := by
  intro i rest hwf
  obtain ⟨o, ho⟩ := exists_opcode?_of_wf hwf
  have hlength : i.mode.bytes.length = (entry o).format.operandBytes := by
    rw [(entry_of_opcode? ho).2, length_bytes]
  rw [encode_of_opcode ho, List.cons_append, decode_operands hlength, ofBytes_of_opcode? ho]

/-- Settles O3: what decodes was assembled from the bytes its encoding writes again. -/
theorem encodeAfterDecode : Obligations.EncodeAfterDecode := by
  intro bytes rest i h
  obtain ⟨o, b1, b2, rfl, rfl⟩ := decode_inversion h
  exact ⟨wf_ofBytes o b1 b2, by rw [encode_ofBytes, List.cons_append]⟩

/-- Settles O4: the operand bytes are the first ones of the rest; conversely an encoding of that length
fits into the bytes only when they are there. -/
theorem everyOpcodeDecodes : Obligations.EveryOpcodeDecodes := by
  intro o rest
  constructor
  · intro hle
    have h := decode_operands (List.length_take_of_le hle) (rest.drop (entry o).format.operandBytes)
    rw [List.take_append_drop] at h
    exact ⟨_, _, h, length_encode_ofBytes ..⟩
  · rintro ⟨i, tail, h, hlength⟩
    have hbytes := congrArg List.length (encodeAfterDecode _ _ _ h).2
    rw [List.length_append, List.length_cons] at hbytes
    omega

/-- Settles O1: the decoder run on the nine words. -/
theorem sampleWordsDecode : Obligations.SampleWordsDecode := by
  unfold Obligations.SampleWordsDecode
  decide

end Sys2Proof
end

section
/-! SUPPORT. What the instruction fetch reads and leaves, and what plain memory holds after a placing
(40_step_and_dispatch.md R101, R111). -/

namespace Sys2Proof.Machine

/-! ### The fetch as a run of byte reads -/

/-- The next bytes of the instruction stream, and the state past them. -/
def State.nextBytes (s : State) : Nat → List Byte × State
  | 0 => ([], s)
  | n + 1 => (s.nextByte.1 :: (s.nextByte.2.nextBytes n).1, (s.nextByte.2.nextBytes n).2)

@[simp] theorem length_nextBytes (s : State) (n : Nat) : (s.nextBytes n).1.length = n := by
  induction n generalizing s with
  | zero => rfl
  | succ n ih => exact congrArg (· + 1) (ih s.nextByte.2)

theorem add_one_add_ofNat (a : Word) (n : Nat) :
    a + 1 + BitVec.ofNat 16 n = a + BitVec.ofNat 16 (n + 1) := by
  rw [Nat.add_comm n 1, BitVec.ofNat_add, ← BitVec.add_assoc]
  rfl

/-- Reading bytes moves `pc` past them and records one read each, at rising addresses. -/
theorem nextBytes_state (s : State) (n : Nat) :
    (s.nextBytes n).2 =
      { s with
        pc := s.pc + BitVec.ofNat 16 n
        bus := fetchTrace s.pc (s.nextBytes n).1 ++ s.bus } := by
  induction n generalizing s with
  | zero => simp [State.nextBytes, fetchTrace]
  | succ n ih =>
    have hread : s.nextByte.2 =
        { s with pc := s.pc + 1, bus := .read s.pc s.nextByte.1 :: s.bus } := rfl
    rw [State.nextBytes, ih, hread]
    simp only [add_one_add_ofNat, fetchTrace, List.append_assoc, List.singleton_append]

/-- The opcode and the bytes after it, read in one run (R101, R111). -/
theorem fetchOpcode_nextBytes (s : State) (n : Nat) :
    (s.fetchOpcode.nextBytes n).2 =
      afterFetch (s.readValue s.pc :: (s.fetchOpcode.nextBytes n).1) s := by
  have hopcode : s.fetchOpcode =
      { s with
        pc := s.pc + 1
        opcode := s.readValue s.pc
        bus := .read s.pc (s.readValue s.pc) :: s.bus } := rfl
  rw [nextBytes_state, afterFetch, List.length_cons, length_nextBytes, ← add_one_add_ofNat, fetchTrace,
    List.append_assoc, List.singleton_append, List.headD_cons, hopcode]

/-- The fetch reads the opcode, then the operand bytes of the opcode's mode (R101). -/
theorem fetchInstr_eq (s : State) :
    s.fetchInstr =
      let r := s.fetchOpcode.nextBytes (entry (s.readValue s.pc)).format.operandBytes
      (ofBytes (s.readValue s.pc) (r.1.getD 0 0) (r.1.getD 1 0), r.2) := by
  have hopcode : s.fetchOpcode.opcode = s.readValue s.pc := rfl
  have hle := operandBytes_le (entry (s.readValue s.pc)).format
  unfold State.fetchInstr
  dsimp only
  rw [hopcode]
  generalize (entry (s.readValue s.pc)).format.operandBytes = n at hle
  match n, hle with
  | 0, _ | 1, _ | 2, _ => rfl

theorem take_operands {bytes : List Byte} (h : bytes.length ≤ 2) :
    [bytes.getD 0 0, bytes.getD 1 0].take bytes.length = bytes := by
  match bytes, h with
  | [], _ | [_], _ | [_, _], _ => rfl

/-- The fetched instruction is encoded by the bytes that were read. -/
theorem encode_fetchInstr (s : State) :
    encode s.fetchInstr.1 = s.readValue s.pc ::
      (s.fetchOpcode.nextBytes (entry (s.readValue s.pc)).format.operandBytes).1 := by
  have htake := take_operands ((length_nextBytes s.fetchOpcode _).trans_le
    (operandBytes_le (entry (s.readValue s.pc)).format))
  rw [length_nextBytes] at htake
  rw [fetchInstr_eq, encode_ofBytes, htake]

/-- A table word that decodes stands for bytes that decode. -/
theorem decode_of_decodeTableWord {nbits w : Nat} {i : Instr} (h : decodeTableWord nbits w = some i) :
    ∃ rest, decode (tableBytes nbits w) = .ok (i, rest) := by
  unfold decodeTableWord at h
  split at h
  · next hdecode =>
    cases h
    exact ⟨_, hdecode⟩
  · cases h

/-! ### Bytes held in plain memory -/

/-- What is held depends on the platform and memory alone. -/
theorem holdsAt_congr {s t : State} {a : Word} {bytes : List Byte} (h : HoldsAt s a bytes)
    (hplatform : t.platform = s.platform) (hmem : t.mem = s.mem) : HoldsAt t a bytes := by
  induction bytes generalizing a with
  | nil => trivial
  | cons v rest ih =>
    obtain ⟨hplain, hbyte, hrest⟩ := h
    exact ⟨hplatform ▸ hplain, hmem ▸ hbyte, ih hrest⟩

theorem holdsAt_of_append {s : State} {a : Word} {bytes rest : List Byte}
    (h : HoldsAt s a (bytes ++ rest)) : HoldsAt s a bytes := by
  induction bytes generalizing a with
  | nil => trivial
  | cons v bytes ih =>
    obtain ⟨hplain, hbyte, hrest⟩ := h
    exact ⟨hplain, hbyte, ih hrest⟩

/-- Bytes held at `pc` are the next ones of the instruction stream. -/
theorem nextBytes_of_holdsAt {s : State} {bytes : List Byte} (h : HoldsAt s s.pc bytes) :
    (s.nextBytes bytes.length).1 = bytes := by
  induction bytes generalizing s with
  | nil => rfl
  | cons v rest ih =>
    obtain ⟨hplain, hbyte, hrest⟩ := h
    have hread : s.nextByte.1 = v := (readValue_plain hplain).trans hbyte
    have hnext : HoldsAt s.nextByte.2 (s.pc + 1) rest := holdsAt_congr hrest rfl rfl
    rw [List.length_cons, State.nextBytes, hread, ih (s := s.nextByte.2) hnext]

/-- A well-formed instruction held at `pc` is what the fetch gives (R101). -/
theorem fetchInstr_of_holdsAt {i : Instr} {s : State} (hwf : i.wf = true)
    (h : HoldsAt s s.pc (encode i)) : s.fetchInstr = (i, afterFetch (encode i) s) := by
  obtain ⟨o, ho⟩ := exists_opcode?_of_wf hwf
  rw [encode_of_opcode ho] at h ⊢
  obtain ⟨hplain, hbyte, hrest⟩ := h
  have hopcode : s.readValue s.pc = o := (readValue_plain hplain).trans hbyte
  have hlength : (entry o).format.operandBytes = i.mode.bytes.length := by
    rw [(entry_of_opcode? ho).2, length_bytes]
  have hnext : HoldsAt s.fetchOpcode (s.pc + 1) i.mode.bytes := holdsAt_congr hrest rfl rfl
  have hoperands := nextBytes_of_holdsAt (s := s.fetchOpcode) hnext
  rw [fetchInstr_eq]
  dsimp only
  rw [fetchOpcode_nextBytes, hopcode, hlength, hoperands, ofBytes_of_opcode? ho]

/-! ### Placing bytes -/

/-- The address is plain memory and holds the byte. -/
def HoldsByte (s : State) (a : Word) (v : Byte) : Prop :=
  plainAt s.platform a = true ∧ s.mem.byteAt a.toNat = v

/-- A registration of one address before all others handles that address and no other (20_memory.md
R52). -/
theorem plainAt_withPlain (p : Platform) (a b : Word) :
    plainAt (withPlain p a) b = true ↔ b = a ∨ plainAt p b = true := by
  have hcovers : deviceCovers ⟨a, a, .ram⟩ b = decide (b = a) := by
    rw [Bool.eq_iff_iff, deviceCovers_iff, decide_eq_true_iff]
    bv_omega
  unfold withPlain
  split
  · next ha => exact ⟨.inr, fun h => h.elim (fun hb => hb ▸ ha) id⟩
  · unfold plainAt deviceAt
    rw [List.find?_cons, hcovers]
    by_cases hb : b = a <;> simp [hb]

theorem placeByte_same (s : State) (a : Word) (v : Byte) : HoldsByte (s.placeByte a v) a v :=
  ⟨(plainAt_withPlain s.platform a a).mpr (.inl rfl), byteAt_write_same s.mem a.toNat v⟩

/-- Placing a byte leaves every other address alone. -/
theorem placeByte_ne {s : State} {a b : Word} {w : Byte} (h : HoldsByte s b w) (hne : a ≠ b)
    (v : Byte) : HoldsByte (s.placeByte a v) b w := by
  obtain ⟨hplain, hbyte⟩ := h
  refine ⟨(plainAt_withPlain s.platform a b).mpr (.inr hplain), ?_⟩
  exact (byteAt_write_ne s.mem v fun heq => hne (BitVec.eq_of_toNat_eq heq)).trans hbyte

/-- Placing bytes leaves an address outside their range alone. -/
theorem placeBytes_keeps {s : State} {a b : Word} {w : Byte} {bytes : List Byte}
    (h : HoldsByte s b w) (hout : bytes.length ≤ (b - a).toNat) :
    HoldsByte (s.placeBytes a bytes) b w := by
  induction bytes generalizing s a with
  | nil => exact h
  | cons v rest ih =>
    rw [List.length_cons] at hout
    have hne : a ≠ b := by rintro rfl; simp at hout
    refine ih (placeByte_ne h hne v) ?_
    bv_omega

/-- Placed bytes are held, when they do not run into themselves. -/
theorem holdsAt_placeBytes (s : State) (a : Word) (bytes : List Byte) (h : bytes.length ≤ 65536) :
    HoldsAt (s.placeBytes a bytes) a bytes := by
  induction bytes generalizing s a with
  | nil => trivial
  | cons v rest ih =>
    rw [List.length_cons] at h
    have hout : rest.length ≤ (a - (a + 1)).toNat := by bv_omega
    obtain ⟨hplain, hbyte⟩ := placeBytes_keeps (placeByte_same s a v) hout
    exact ⟨hplain, hbyte, ih _ _ (by omega)⟩

end Sys2Proof.Machine
end

section
/-! SUPPORT. The two cases of a tick, and the next state of every event after the first `Reset`
(40_step_and_dispatch.md R100, R110). -/

namespace Sys2Proof.Machine

@[simp] theorem nextEvent_pc (s : State) : s.nextEvent.2.pc = s.pc := by rw [nextEvent_eq]
@[simp] theorem nextEvent_cycles (s : State) : s.nextEvent.2.cycles = s.cycles := by rw [nextEvent_eq]
@[simp] theorem nextEvent_totalCycles (s : State) : s.nextEvent.2.totalCycles = s.totalCycles := by
  rw [nextEvent_eq]
@[simp] theorem nextEvent_mem (s : State) : s.nextEvent.2.mem = s.mem := by rw [nextEvent_eq]
@[simp] theorem nextEvent_hasReset (s : State) : s.nextEvent.2.hasReset = s.hasReset := by
  rw [nextEvent_eq]
@[simp] theorem nextEvent_platform (s : State) : s.nextEvent.2.platform = s.platform := by
  rw [nextEvent_eq]

/-- At countdown zero a tick runs the fetched instruction and counts (R100). -/
theorem tick_of_zero {s : State} (h : s.cycles = 0) :
    s.tick = countOutcome (exec s.fetchInstr.1 s.fetchInstr.2) := if_pos h

/-- While the countdown lasts a tick only counts (R100). -/
theorem tick_of_ne_zero {s : State} (h : s.cycles ≠ 0) : s.tick = .next s.countTick := if_neg h

theorem tick_next (s : State) : ∃ t, s.tick = .next t := by
  by_cases h : s.cycles = 0
  · obtain ⟨t, ht, -⟩ := exec_runsWithin s.fetchInstr.1 s.fetchInstr.2
    exact ⟨t.countTick, by rw [tick_of_zero h, ht, countOutcome]⟩
  · exact ⟨_, tick_of_ne_zero h⟩

/-- After the first `Reset` no event is refused, and none can fault (R110, 60_exceptions.md R258). -/
theorem event_next {s : State} (hr : s.hasReset = true) (e : Event) : ∃ t, event e s = .next t := by
  unfold event
  rw [hr]
  cases e with
  | tick => exact tick_next s
  | reset | irq | nmi => exact ⟨_, rfl⟩

/-- With no host call pending, a step while the countdown lasts only counts. -/
theorem step_of_ne_zero {s : State} (hr : s.hasReset = true) (hcalls : s.hostCalls = [])
    (h : s.cycles ≠ 0) : step s = .next s.countTick := by
  have hnext : s.nextEvent = (.tick, s) := by rw [State.nextEvent, hcalls]
  rw [step_tick (by rw [hnext]) hr, hnext, tick_of_ne_zero h]

/-- After the placing of an instruction the host's next call is a `Tick` (log 11). -/
theorem withFetchWord_nextEvent (s : State) (nbits w : Nat) :
    (s.withFetchWord nbits w).nextEvent.1 = .tick := by
  unfold State.nextEvent State.withFetchWord
  by_cases h : s.hostCalls = [] <;> simp [h]

end Sys2Proof.Machine
end

section
/-! SUPPORT. What each instruction costs, said once for the shapes of instructions and once for all of
them, and that the descriptor table agrees (40_step_and_dispatch.md R104, 45_branch_jump.md R191,
30_encoding.md R87, R88). -/

namespace Sys2Proof.Machine

/-! ### The shapes -/

theorem reading_cycles {s : State} {base : Nat} {signal : Bool} {m : Mode} {use : State → Byte → State}
    (h : ∀ u v, (use u v).cycles = u.cycles) :
    (s.reading base signal m use).cycles = base + (signal && (resolve m s).2).toNat := by
  rw [reading_eq, penalty_cycles, h, startCycles_cycles]

theorem storing_cycles (s : State) (m : Mode) (v : Byte) :
    (s.storing m v).cycles = storeCycles m := by
  rw [storing_eq, memWrite_cycles, startCycles_cycles]

theorem implied_cycles {s : State} {base : Nat} {op : State → State}
    (h : ∀ u, (op u).cycles = u.cycles) : (s.implied base op).cycles = base := by
  rw [implied_eq, h]

theorem writeBack_cycles (m : Mode) (s : State) (v : Byte) : (writeBack m s v).cycles = s.cycles := by
  cases m <;> rfl

/-- A branch costs one more when taken and another when its target is in another page (R191). -/
theorem branch_cost (s : State) (cond : Bool) (b : Byte) :
    (s.branch cond b).cycles = 2 ∧ (s.branch cond b).pc = s.pc ∨
    (s.branch cond b).cycles = 2 + 1 + (if hi (s.branch cond b).pc = hi s.pc then 0 else 1) ∧
      (s.branch cond b).pc = s.pc + sext16 b := by
  cases cond with
  | false => exact .inl ⟨rfl, rfl⟩
  | true =>
    refine .inr ⟨?_, rfl⟩
    rw [branch_taken]
    dsimp only
    by_cases h : hi (s.pc + sext16 b) = hi s.pc
    · rw [if_pos h, bne_eq_false_iff_eq.mpr h, Bool.toNat_false]
    · rw [if_neg h, bne_iff_ne.mpr h, Bool.toNat_true]

/-! ### The instructions -/

/-- The base cost of an operation in a mode (70_reset_and_hazards.md R278); a trap's is its own
parameter. -/
def baseCost (op : Op) (m : Mode) : Nat :=
  match op with
  | .lda | .ldx | .ldy | .adc | .sbc | .sbcEb | .and | .ora | .eor | .bit | .cmp | .cpx | .cpy =>
    readCycles m
  | .sta | .stx | .sty => storeCycles m
  | .inc | .dec | .asl | .lsr | .rol | .ror => modifyCycles m
  | .jmp => jumpCycles m
  | .jsr | .rts | .rti => 6
  | .brk => 7
  | .pha | .php => 3
  | .pla | .plp => 4
  | _ => 2

/-- The operations whose signal grants the mode's extra cycle (30_encoding.md R88), the traps apart. -/
def signals : Op → Bool
  | .adc | .and | .cmp | .eor | .lda | .ldx | .ldy | .ora | .sbc | .sbcEb => true
  | _ => false

/-- Every instruction but the branches and the traps costs its base cost and the AND of the two
signals (R104). -/
theorem exec_cost {i : Instr} (htrap : i.op ≠ .trap) (hrel : i.mode.format ≠ .rel) (s : State) :
    Completes i s fun t =>
      t.cycles = baseCost i.op i.mode + (signals i.op && (resolve i.mode s).2).toNat := by
  cases i with
  | lda m | ldx m | ldy m | adc m | sbc m | sbcEb b | and m | ora m | eor m | bit m | cmp m | cpx m
  | cpy m | inc m | dec m => exact ⟨_, rfl, reading_cycles fun _ _ => rfl⟩
  | asl m | lsr m | rol m | ror m => exact ⟨_, rfl, reading_cycles fun _ _ => writeBack_cycles m _ _⟩
  | sta m | stx m | sty m => exact ⟨_, rfl, storing_cycles s m _⟩
  | tax | tay | tsx | txa | txs | tya | inx | iny | dex | dey | nop | rts | pha | php | pla | plp
  | clc | cld | cli | clv | sec | sed | sei | rti => exact ⟨_, rfl, implied_cycles fun _ => rfl⟩
  | brk => exact ⟨_, rfl, implied_cycles fun u => enterInterrupt_cycles _ _ _⟩
  | jmp m => exact ⟨_, rfl, resolve_cycles m _⟩
  | jsr w => exact ⟨_, rfl, rfl⟩
  | bcc b | bcs b | beq b | bne b | bmi b | bpl b | bvc b | bvs b => exact absurd rfl hrel
  | trap o => exact absurd rfl htrap

/-- An instruction whose operation has the Relative form is a branch on some condition. -/
theorem exec_build_rel {op : Op} (h : .rel ∈ formats op) (o : Byte) (m : Mode) (b : Byte) (w : Word)
    (s : State) : ∃ cond, exec (build op o m b w) s = .next (s.branch cond b) := by
  cases op
  case bcc | bcs | beq | bne | bmi | bpl | bvc | bvs => exact ⟨_, rfl⟩
  all_goals exact absurd h (by decide)

/-- A trap slot costs what UNDOC_CYCLES says: the Implied mode grants no extra cycle (30_encoding.md
R87). -/
theorem exec_trap_cost (o : Byte) (s : State) :
    Completes (.trap o) s fun t => t.cycles = trapCycles s.platform o := by
  refine ⟨_, rfl, ?_⟩
  show trapCycles s.platform o + (opSignal o && false).toNat = _
  rw [Bool.and_false]
  rfl

/-! ### The descriptor table -/

/-- The operand's value has no part in the base cost. -/
theorem baseCost_mode (op : Op) (f : Format) (b1 b2 : Byte) :
    baseCost op (f.mode b1 b2) = baseCost op (f.mode 0 0) := by
  cases f <;> simp only [Format.mode, baseCost, readCycles, storeCycles, modifyCycles, jumpCycles]

/-- The base costs of the table are the ones the instructions load. -/
theorem baseCost_entry (o : Byte) (h : (entry o).op ≠ .trap) :
    baseCost (entry o).op ((entry o).format.mode 0 0) = (entry o).baseCycles := by
  revert o
  decide

theorem baseCycles_of_rel (o : Byte) (h : (entry o).format = .rel) : (entry o).baseCycles = 2 := by
  revert o
  decide

theorem opSignal_eq (o : Byte) (h : (entry o).op ≠ .trap) : opSignal o = signals (entry o).op := by
  unfold opSignal
  cases hop : (entry o).op with
  | trap => exact absurd hop h
  | _ => rfl

/-! ### The instruction of each opcode -/

theorem format_mode_ofBytes (o b1 b2 : Byte) : (ofBytes o b1 b2).mode.format = (entry o).format := by
  rw [mode_ofBytes, format_mode]

theorem ofBytes_of_trap {o : Byte} (h : (entry o).op = .trap) (b1 b2 : Byte) :
    ofBytes o b1 b2 = .trap o := by
  rw [ofBytes, h, build]

/-- An opcode of the Relative mode is a branch on some condition (R191). -/
theorem exec_ofBytes_rel {o : Byte} (h : (entry o).format = .rel) (b1 b2 : Byte) (s : State) :
    ∃ cond, exec (ofBytes o b1 b2) s = .next (s.branch cond b1) :=
  exec_build_rel (h ▸ entry_format_mem o) ..

/-- Any other opcode but a trap slot costs what its table entry says (R104). -/
theorem exec_ofBytes_cost {o : Byte} (htrap : (entry o).op ≠ .trap) (hrel : (entry o).format ≠ .rel)
    (b1 b2 : Byte) (s : State) :
    Completes (ofBytes o b1 b2) s fun t =>
      t.cycles = (entry o).baseCycles + (opSignal o && (resolve (ofBytes o b1 b2).mode s).2).toNat := by
  have hcost := exec_cost (i := ofBytes o b1 b2) (by rwa [op_ofBytes])
    (by rwa [format_mode_ofBytes]) s
  have hbase : baseCost (entry o).op (ofBytes o b1 b2).mode = (entry o).baseCycles := by
    rw [mode_ofBytes, baseCost_mode, baseCost_entry o htrap]
  rwa [op_ofBytes, hbase, ← opSignal_eq o htrap] at hcost

end Sys2Proof.Machine
end

section
/-! The obligations about the step and the tick (40_step_and_dispatch.md). -/

namespace Sys2Proof.Machine

/-- Settles O5: the fetched instruction is assembled from the bytes read, so they are its encoding. -/
theorem fetchReadsTheInstruction : Obligations.FetchReadsTheInstruction := by
  intro s
  rw [encode_fetchInstr, ← fetchOpcode_nextBytes, fetchInstr_eq]
  exact ⟨wf_ofBytes .., rfl⟩

/-- Settles O7: both cases of a tick; at countdown zero every instruction completes. -/
theorem tickStepsAtZeroElseCounts : Obligations.TickStepsAtZeroElseCounts := by
  intro s hr htick
  rw [step_tick htick hr]
  constructor
  · intro hzero
    obtain ⟨t, ht, -⟩ := exec_runsWithin s.nextEvent.2.fetchInstr.1 s.nextEvent.2.fetchInstr.2
    exact ⟨t, ht, by rw [tick_of_zero ((nextEvent_cycles s).trans hzero), ht]; rfl⟩
  · intro hne
    rw [tick_of_ne_zero ((nextEvent_cycles s).trans_ne hne), State.countTick, nextEvent_cycles,
      nextEvent_totalCycles]

/-- Settles O8, by induction on the ticks. -/
theorem delayRunOnlyCounts : Obligations.DelayRunOnlyCounts := by
  intro n
  induction n with
  | zero => exact fun _ _ _ _ => rfl
  | succ n ih =>
    intro s hr hcalls hle
    have hne : s.cycles ≠ 0 := by omega
    have hrest : n ≤ s.cycles - 1 := by omega
    rw [run_of_step n (step_of_ne_zero hr hcalls hne), ih s.countTick hr hcalls hrest]
    simp only [State.countTick]
    congr 2 <;> omega

/-- Settles O11: no event is refused after the first `Reset`, and every instruction completes. -/
theorem everyStepHasANextState : Obligations.EveryStepHasANextState :=
  fun s hr => event_next ((nextEvent_hasReset s).trans hr) s.nextEvent.1

/-- Settles O6: the bytes at `pc` are the ones the fetch reads. -/
theorem stepRunsTheDecodedInstruction : Obligations.StepRunsTheDecodedInstruction := by
  intro i s hwf hr hzero htick hheld
  have hnext : HoldsAt s.nextEvent.2 s.nextEvent.2.pc (encode i) := by
    rw [nextEvent_pc]
    exact holdsAt_congr hheld (nextEvent_platform s) (nextEvent_mem s)
  rw [step_tick htick hr, tick_of_zero ((nextEvent_cycles s).trans hzero),
    fetchInstr_of_holdsAt hwf hnext]

/-- Settles O60: the placed bytes begin with the decoded instruction's encoding, and the next event is
a `Tick` at countdown zero. -/
theorem placedWordRunsNext : Obligations.PlacedWordRunsNext := by
  intro s nbits w i h s'
  obtain ⟨rest, hdecode⟩ := decode_of_decodeTableWord h
  obtain ⟨hwf, hbytes⟩ := encodeAfterDecode _ _ _ hdecode
  have htick : s'.nextEvent.1 = .tick := withFetchWord_nextEvent s nbits w
  have hplaced : HoldsAt s' s.pc (encode i ++ rest) := by
    rw [hbytes]
    exact holdsAt_congr (holdsAt_placeBytes s s.pc (tableBytes nbits w) (by simp [tableBytes])) rfl rfl
  exact ⟨htick,
    stepRunsTheDecodedInstruction i s' hwf rfl rfl htick (holdsAt_of_append hplaced)⟩

/-- Settles O10: a trap slot and a branch have costs of their own; every other opcode loads the base
cost of its table entry. -/
theorem costsFollowTheTable : Obligations.CostsFollowTheTable := by
  intro o b1 b2 s
  simp only [op_ofBytes, format_mode_ofBytes]
  by_cases htrap : (entry o).op = .trap
  · simp only [if_pos htrap, ofBytes_of_trap htrap]
    exact exec_trap_cost o s
  · by_cases hrel : (entry o).format = .rel
    · obtain ⟨cond, hcond⟩ := exec_ofBytes_rel hrel b1 b2 s
      simp only [if_neg htrap, if_pos hrel, baseCycles_of_rel o hrel]
      exact ⟨_, hcond, branch_cost s cond b1⟩
    · simp only [if_neg htrap, if_neg hrel]
      exact exec_ofBytes_cost htrap hrel b1 b2 s

/-- Settles O31: each mode is the accumulator, the immediate byte, or one read of `addr_abs`. -/
theorem operandReadsOnce : Obligations.OperandReadsOnce := by
  intro m s
  refine ⟨?_, ?_, fun himp himm => ?_⟩
  · rintro rfl
    exact ⟨rfl, rfl⟩
  · rintro b rfl
    exact ⟨rfl, rfl, BitVec.sub_add_cancel s.pc 1⟩
  · cases m with
    | imp => exact absurd rfl himp
    | imm b => exact absurd rfl himm
    | _ => exact ⟨rfl, rfl⟩

end Sys2Proof.Machine
end

section
/-! SUPPORT. The address arithmetic of the modes in numbers, the two reads of a pointer, and what a mode
routine leaves, said once for all modes (41_addressing_modes.md R120 to R132). -/

namespace Sys2Proof.Machine

/-! ### Address arithmetic -/

/-- An indexed zero-page address wraps in the page (R124, R125). -/
theorem zext16_add_toNat (b index : Byte) :
    (zext16 (b + index)).toNat = (b.toNat + index.toNat) % 256 := by
  rw [zext16_toNat, BitVec.toNat_add]

/-- An indexed address wraps in the address space (R128, R129, R132). -/
theorem indexed_toNat (base : Word) (index : Byte) :
    (indexed base index).1.toNat = (base.toNat + index.toNat) % 65536 := by
  rw [indexed, BitVec.toNat_add, zext16_toNat]

/-- It crosses a page exactly when the page numbers differ (00_scope.md R10). -/
theorem indexed_crossing (base : Word) (index : Byte) :
    (indexed base index).2.toNat =
      if (base.toNat + index.toNat) % 65536 / 256 = base.toNat / 256 then 0 else 1 := by
  have hpage : hi (indexed base index).1 = hi base ↔
      (base.toNat + index.toNat) % 65536 / 256 = base.toNat / 256 := by
    rw [← BitVec.toNat_inj, hi_toNat, hi_toNat, indexed_toNat]
  show (hi (indexed base index).1 != hi base).toNat = _
  by_cases h : hi (indexed base index).1 = hi base
  · rw [if_pos (hpage.mp h), bne_eq_false_iff_eq.mpr h, Bool.toNat_false]
  · rw [if_neg (mt hpage.mpr h), bne_iff_ne.mpr h, Bool.toNat_true]

/-- Clearing the low byte of a word gives the start of its page. -/
theorem and_pageMask_toNat (w : Word) : (w &&& 0xFF00).toNat = w.toNat / 256 * 256 := by
  have hmask : (0xFF00 : Word) = BitVec.allOnes 16 <<< 8 := rfl
  rw [hmask, ← BitVec.shiftLeft_ushiftRight]
  bv_omega

/-- The high byte of an indirect target is in the pointer's own page (R130). -/
theorem indirectHigh_toNat (ptr : Word) :
    (indirectHigh ptr).toNat = ptr.toNat / 256 * 256 + (ptr.toNat + 1) % 256 := by
  have hlow : lo ptr = 0xFF ↔ ptr.toNat % 256 = 255 := by
    rw [← BitVec.toNat_inj, lo_toNat]
    rfl
  unfold indirectHigh
  split
  · next h =>
    have := hlow.mp h
    rw [and_pageMask_toNat]
    omega
  · next h =>
    have := mt hlow.mpr h
    bv_omega

/-! ### Pointers -/

/-- The bus trace of `Read16`: the low byte's read, then the high byte's (20_memory.md R58). -/
theorem read16_bus (s : State) (low high : Word) :
    (s.read16 low high).2.bus =
      [.read high ((s.memRead low).2.readValue high), .read low (s.readValue low)] ++ s.bus := rfl

/-- A read of plain or read-only memory sees no earlier read. -/
theorem readValue_memRead {s : State} {a : Word} (h : plainAt s.platform a = true) (b : Word) :
    (s.memRead b).2.readValue a = s.readValue a := by
  rw [readValue_plain (s := (s.memRead b).2) h, readValue_plain h, memRead_mem]

/-- `Read16` forms its word of the two bytes it reads, and only the bus trace takes part. -/
theorem pointerRead_read16 {s t : State} {low high : Word}
    (hbus : t.bus = (s.read16 low high).2.bus) : PointerRead low high (s.read16 low high).1 s t :=
  ⟨_, _, join_toNat _ _, hbus.trans (read16_bus s low high), rfl, fun h => readValue_memRead h low⟩

/-! ### The frame of a mode routine -/

/-- The pointer modes read twice, the others not at all. -/
theorem resolve_reads (m : Mode) (s : State) :
    ∃ reads : List (Word × Byte),
      (resolve m s).1.bus = reads.map (fun r => BusOp.read r.1 r.2) ++ s.bus := by
  cases m with
  | ind _ | izx _ | izy _ => exact ⟨[(_, _), (_, _)], read16_bus s _ _⟩
  | _ => exact ⟨[], rfl⟩

/-- Besides the bus trace a mode routine writes `fetched`, `addr_abs` and `addr_rel` alone (R120). -/
theorem resolve_frame (m : Mode) (s : State) :
    (resolve m s).1 =
      { s with
        bus := (resolve m s).1.bus
        fetched := (resolve m s).1.fetched
        addrAbs := (resolve m s).1.addrAbs
        addrRel := (resolve m s).1.addrRel } := by
  cases m <;> rfl

end Sys2Proof.Machine
end

section
/-! The obligations about the addressing modes (41_addressing_modes.md). -/

namespace Sys2Proof.Machine

/-- Settles O28: the indexed forms are one sum and its page comparison, with X and with Y. -/
theorem absoluteModesIndex : Obligations.AbsoluteModesIndex := fun w s =>
  ⟨rfl, rfl, indexed_toNat w s.x, indexed_crossing w s.x, indexed_toNat w s.y, indexed_crossing w s.y⟩

/-- Settles O29: the high byte is read where `indirectHigh` says. -/
theorem indirectWrapsInThePage : Obligations.IndirectWrapsInThePage := fun w _ =>
  ⟨rfl, indirectHigh w, indirectHigh_toNat w, pointerRead_read16 rfl⟩

/-- Settles O30: both pointers are byte sums in the zero page; the Y form indexes the word it reads. -/
theorem zeroPagePointersWrap : Obligations.ZeroPagePointersWrap := by
  intro b s
  constructor
  · have hhigh : (zext16 (b + s.x + 1)).toNat = (b.toNat + s.x.toNat + 1) % 256 := by
      rw [zext16_add_toNat, BitVec.toNat_add]
      exact Nat.mod_add_mod _ 256 1
    exact ⟨rfl, _, _, zext16_add_toNat b s.x, hhigh, pointerRead_read16 rfl⟩
  · exact ⟨_, _, _, zext16_toNat b, zext16_add_toNat b 1, pointerRead_read16 rfl,
      indexed_toNat _ s.y, indexed_crossing _ s.y⟩

/-- Settles O26: only the pointer modes use the bus, and every mode keeps the frame. -/
theorem modesTouchOnlyTransients : Obligations.ModesTouchOnlyTransients := fun m s =>
  ⟨resolve_reads m s, _, _, _, _, resolve_frame m s⟩

/-- Settles O27: the address is a byte sum. -/
theorem zeroPageModesWrap : Obligations.ZeroPageModesWrap := fun b s =>
  ⟨zext16_toNat b, zext16_add_toNat b s.x, zext16_add_toNat b s.y, rfl, rfl, rfl⟩

end Sys2Proof.Machine
end

section
/-! SUPPORT. The state after each shape of instruction when its operation updates registers and flags
alone, and after a store, said once for all modes (40_step_and_dispatch.md R104 to R107,
42_load_store_transfer.md R140, 41_addressing_modes.md R121). -/

namespace Sys2Proof.Machine

/-- From `s` to `t` nothing but `A`, `X`, `Y`, `SP`, `P` and `temp` differs. -/
def UpdatesRegisters (s t : State) : Prop :=
  ∃ a x y sp p temp, t = { s with a := a, x := x, y := y, sp := sp, p := p, temp := temp }

theorem UpdatesRegisters.cycles_eq {s t : State} (h : UpdatesRegisters s t) : t.cycles = s.cycles := by
  obtain ⟨a, x, y, sp, p, temp, rfl⟩ := h
  rfl

/-! ### An instruction that reads its operand -/

section Reading

variable {s : State} {base : Nat} {signal : Bool} {m : Mode} {use : State → Byte → State}

theorem reading_temp (h : ∀ u v, (use u v).temp = u.temp) :
    (s.reading base signal m use).temp = s.temp := by
  rw [reading_eq, penalty_temp, h, startCycles_temp, operand_temp, resolve_temp]

/-- What an operation on the registers leaves is what the mode routine and `Operand()` left. -/
theorem reading_operandOnly (hupdates : ∀ u v, UpdatesRegisters u (use u v))
    (hsp : ∀ u v, (use u v).sp = u.sp) : OperandOnly m s (s.reading base signal m use) := by
  have hkept : (s.reading base signal m use).sp = s.sp := by
    rw [reading_eq, penalty_sp, hsp, startCycles_sp, operand_sp, resolve_sp]
  obtain ⟨a, x, y, sp, p, temp, huse⟩ :=
    hupdates ((operand m (resolve m s).1).2.startCycles base) (operandByte m s)
  rw [reading_eq, huse] at hkept ⊢
  have hmem : (operand m (resolve m s).1).2.mem = s.mem := by rw [operand_mem, resolve_mem]
  exact ⟨operand_fetched m _, operand_addrAbs m _, operand_addrRel m _, rfl, hkept, by simp,
    memoryKept_of_mem_eq hmem, by simp [SurroundingsKept]⟩

/-- An operation that sets Z and N by the operand byte (R107). -/
theorem reading_znOf (h : ∀ u v, (use u v).p = znFlags u.p v) :
    ZNOf (operandByte m s) (s.reading base signal m use) ∧
      FlagsKeptOutside [.z, .n] s (s.reading base signal m use) := by
  apply znOf_of_p
  rw [reading_eq, penalty_p, h, startCycles_p, operand_p, resolve_p]

/-- What the three loads share (42_load_store_transfer.md R141 to R143). -/
theorem load_leaves (hupdates : ∀ u v, UpdatesRegisters u (use u v))
    (hsp : ∀ u v, (use u v).sp = u.sp) (htemp : ∀ u v, (use u v).temp = u.temp)
    (hp : ∀ u v, (use u v).p = znFlags u.p v) :
    let t := s.reading (readCycles m) true m use
    ZNOf (operandByte m s) t ∧ FlagsKeptOutside [.z, .n] s t ∧
      t.cycles = readCycles m + crossing m s ∧ t.temp = s.temp ∧ OperandOnly m s t := by
  obtain ⟨hzn, hflags⟩ := reading_znOf (s := s) (base := readCycles m) (signal := true) (m := m) hp
  exact ⟨hzn, hflags, reading_cycles fun u v => (hupdates u v).cycles_eq, reading_temp htemp,
    reading_operandOnly hupdates hsp⟩

end Reading

/-! ### A store -/

/-- Only the accumulator form stages a byte in the mode routine (41_addressing_modes.md R121). -/
theorem resolve_fetched {m : Mode} (h : m.format ≠ .imp) (s : State) :
    (resolve m s).1.fetched = s.fetched := by
  cases m with
  | imp => exact absurd rfl h
  | _ => rfl

/-- The write stores its byte in the memory before the instruction. -/
theorem storing_stored (s : State) (m : Mode) (v : Byte) :
    Stored [(operandAddr m s, v)] s (s.storing m v) := by
  apply stored_one
  rw [storing_eq, memWrite_mem, startCycles_mem, startCycles_platform, resolve_mem, resolve_platform]
  rfl

theorem storing_addressTransients {m : Mode} (h : m.format ≠ .imp) (s : State) (v : Byte) :
    AddressTransients m s (s.storing m v) := by
  rw [storing_eq]
  exact ⟨resolve_fetched h s, resolve_temp m s, rfl, rfl⟩

theorem storing_surroundings (s : State) (m : Mode) (v : Byte) :
    SurroundingsKept s (s.storing m v) := (RunsWithin.storing s m v).changes.surroundings

/-! ### An Implied instruction -/

/-- A two-cycle operation on the registers leaves the rest as the Implied mode did. -/
theorem implied_registerOnly {s : State} {op : State → State} (hupdates : ∀ u, UpdatesRegisters u (op u))
    (htemp : ∀ u, (op u).temp = u.temp) : RegisterOnly s (s.implied 2 op) := by
  have hkept : (s.implied 2 op).temp = s.temp := htemp _
  obtain ⟨a, x, y, sp, p, temp, hop⟩ := hupdates { s with fetched := s.a, cycles := 2 }
  rw [implied_eq, hop] at hkept ⊢
  exact ⟨rfl, rfl, rfl, fun _ => rfl, ⟨rfl, hkept, rfl, rfl⟩, rfl, rfl, rfl, rfl, rfl⟩

/-- The same with Z and N set by a byte (R107). -/
theorem implied_znOf {s : State} {op : State → State} {v : Byte}
    (hupdates : ∀ u, UpdatesRegisters u (op u)) (htemp : ∀ u, (op u).temp = u.temp)
    (hp : (s.implied 2 op).p = znFlags s.p v) :
    ZNOf v (s.implied 2 op) ∧ FlagsKeptOutside [.z, .n] s (s.implied 2 op) ∧
      RegisterOnly s (s.implied 2 op) :=
  and_assoc.mp ⟨znOf_of_p hp, implied_registerOnly hupdates htemp⟩

end Sys2Proof.Machine
end

section
/-! The obligations about loads, stores and transfers (42_load_store_transfer.md). -/

namespace Sys2Proof.Machine

/-- Settles O32: each load is one shape, with its own register; the other two are what they were
before the mode routine. -/
theorem loadsTakeTheOperand : Obligations.LoadsTakeTheOperand := by
  intro m s
  refine ⟨⟨_, rfl, ?_, ?_, ?_, load_leaves (fun _ v => ⟨v, _, _, _, _, _, rfl⟩)
      (fun _ _ => rfl) (fun _ _ => rfl) fun _ _ => rfl⟩,
    ⟨_, rfl, ?_, ?_, ?_, load_leaves (fun _ v => ⟨_, v, _, _, _, _, rfl⟩)
      (fun _ _ => rfl) (fun _ _ => rfl) fun _ _ => rfl⟩,
    ⟨_, rfl, ?_, ?_, ?_, load_leaves (fun _ v => ⟨_, _, v, _, _, _, rfl⟩)
      (fun _ _ => rfl) (fun _ _ => rfl) fun _ _ => rfl⟩⟩
  all_goals simp [reading_eq]

/-- Settles O33: each store is one write after the mode routine, of its own register. -/
theorem storesWriteTheRegister : Obligations.StoresWriteTheRegister := by
  intro m s himp post
  have hpost : ∀ v, post v (s.storing m v) := fun v => by
    refine ⟨?_, storing_stored s m v, ?_, ?_, ?_, ?_, ?_, ?_, storing_cycles s m v,
      storing_addressTransients himp s v, storing_surroundings s m v⟩
    all_goals simp [storing_eq]
  exact ⟨⟨_, rfl, hpost s.a⟩, ⟨_, rfl, hpost s.x⟩, ⟨_, rfl, hpost s.y⟩⟩

/-- Settles O34: each transfer is a record update, followed by `SetZN` in all but TXS. -/
theorem transfersCopy : Obligations.TransfersCopy := fun _ =>
  ⟨⟨_, rfl, rfl, rfl, rfl, rfl, implied_znOf (fun u => ⟨_, u.a, _, _, _, _, rfl⟩) (fun _ => rfl) rfl⟩,
    ⟨_, rfl, rfl, rfl, rfl, rfl, implied_znOf (fun u => ⟨_, _, u.a, _, _, _, rfl⟩) (fun _ => rfl) rfl⟩,
    ⟨_, rfl, rfl, rfl, rfl, rfl, implied_znOf (fun u => ⟨_, u.sp, _, _, _, _, rfl⟩) (fun _ => rfl) rfl⟩,
    ⟨_, rfl, rfl, rfl, rfl, rfl, implied_znOf (fun u => ⟨u.x, _, _, _, _, _, rfl⟩) (fun _ => rfl) rfl⟩,
    ⟨_, rfl, rfl, rfl, rfl, rfl, implied_znOf (fun u => ⟨u.y, _, _, _, _, _, rfl⟩) (fun _ => rfl) rfl⟩,
    ⟨_, rfl, rfl, rfl, rfl, rfl, rfl,
      implied_registerOnly (fun u => ⟨_, _, _, u.x, _, _, rfl⟩) fun _ => rfl⟩⟩

end Sys2Proof.Machine
end

section
/-! SUPPORT. The operations of the family in numbers, and what each of its shapes of instruction leaves,
said once for all modes (43_arithmetic_logic.md R161 to R175). -/

namespace Sys2Proof.Machine

/-! ### Bytes and words as numbers -/

theorem sub_one_toNat (v : Byte) : (v - 1).toNat = (v.toNat + 255) % 256 := by bv_omega

/-- A byte as a signed number. -/
theorem toInt_eq_sub_sign (v : Byte) : v.toInt = v.toNat - if 128 ≤ v.toNat then 256 else 0 := by
  have := v.isLt
  rw [BitVec.toInt_eq_toNat_cond]
  omega

/-- The exclusive or with 0xFF is the complement (R162). -/
theorem complement_toNat (v : Byte) : (v ^^^ 0xFF).toNat = 255 - v.toNat := by
  have hones : (0xFF : Byte) = BitVec.allOnes 8 := rfl
  rw [hones, BitVec.xor_allOnes, BitVec.toNat_not]

theorem complement_toInt (v : Byte) : (v ^^^ 0xFF).toInt = -1 - v.toInt := by
  have := v.isLt
  rw [toInt_eq_sub_sign, toInt_eq_sub_sign v, complement_toNat]
  omega

theorem word_bit7_eq (w : Word) : w.getLsbD 7 = decide (128 ≤ w.toNat % 256) := by
  rw [BitVec.getLsbD, Nat.testBit_eq_decide_div_mod_eq, decide_eq_decide]
  omega

/-! ### An add with carry (R161) -/

/-- The operands share a sign that the sum has not, exactly when the signed sum does not fit. -/
theorem addOverflow_addTemp (a m : Byte) (c : Bool) :
    addOverflow a m (addTemp a m c) =
      decide (a.toInt + m.toInt + (c.toNat : Int) < -128 ∨ 127 < a.toInt + m.toInt + (c.toNat : Int)) := by
  have ha := a.isLt
  have hm := m.isLt
  have hc := Bool.toNat_le c
  rw [addOverflow, word_bit7_eq, addTemp_toNat, bit7_eq, bit7_eq, toInt_eq_sub_sign,
    toInt_eq_sub_sign m, Bool.eq_iff_iff]
  simp only [Bool.and_eq_true, beq_iff_eq, bne_iff_ne, ne_eq, decide_eq_true_eq, decide_eq_decide]
  omega

/-- `A` and the flags of `t` say what `A + m + C` was in `s`, and `temp` is the whole sum. -/
def HoldsSum (m : Byte) (s t : State) : Prop :=
  let sum := s.a.toNat + m.toNat + (s.flag .c).toNat
  let signed := s.a.toInt + m.toInt + ((s.flag .c).toNat : Int)
  t.a.toNat = sum % 256 ∧ t.flag .c = decide (255 < sum) ∧
    t.flag .v = decide (signed < -128 ∨ 127 < signed) ∧ ZNOf t.a t ∧ t.temp.toNat = sum

theorem addWithCarry_holdsSum (s : State) (m : Byte) : HoldsSum m s (s.addWithCarry m) := by
  have hsum := addTemp_toNat s.a m (s.flag .c)
  have hc : (s.addWithCarry m).flag .c = (addTemp s.a m (s.flag .c)).getLsbD 8 := by
    simp [State.addWithCarry, State.flag]
  have hv : (s.addWithCarry m).flag .v = addOverflow s.a m (addTemp s.a m (s.flag .c)) := by
    simp [State.addWithCarry, State.flag]
  exact ⟨(lo_toNat _).trans (congrArg (· % 256) hsum), hc.trans (addTemp_carry _ _ _),
    hv.trans (addOverflow_addTemp _ _ _), (znOf_of_p rfl).1, hsum⟩

/-- Adding the complement subtracts, with the borrow for a carry that is not set (R162). -/
theorem HoldsSum.difference {v : Byte} {s t : State} (h : HoldsSum (v ^^^ 0xFF) s t) :
    let borrow := 1 - (s.flag .c).toNat
    let signed := s.a.toInt - v.toInt - (borrow : Int)
    (t.a.toNat : Int) = ((s.a.toNat : Int) - v.toNat - borrow) % 256 ∧
      t.flag .c = decide (v.toNat + borrow ≤ s.a.toNat) ∧
      t.flag .v = decide (signed < -128 ∨ 127 < signed) ∧
      (t.temp.toNat : Int) = (s.a.toNat : Int) - v.toNat - borrow + 256 := by
  have hv := v.isLt
  have hcarry := Bool.toNat_le (s.flag .c)
  obtain ⟨ha, hc, hoverflow, -, htemp⟩ := h
  rw [complement_toNat] at ha hc htemp
  rw [complement_toInt] at hoverflow
  refine ⟨?_, ?_, ?_, ?_⟩
  · omega
  · rw [hc, decide_eq_decide]
    omega
  · rw [hoverflow, decide_eq_decide]
    omega
  · omega

/-! ### A compare (R167) -/

theorem compare_flags (s : State) (reg m : Byte) :
    let t := s.compare reg m
    t.flag .c = decide (m.toNat ≤ reg.toNat) ∧ t.flag .z = decide (reg = m) ∧
      t.flag .n = decide (128 ≤ (reg.toNat + 256 - m.toNat) % 256) ∧
      t.temp.toNat = (reg.toNat + 65536 - m.toNat) % 65536 := by
  have hr := reg.isLt
  have hm := m.isLt
  have htemp : (zext16 reg - zext16 m).toNat = (reg.toNat + 65536 - m.toNat) % 65536 := by
    rw [BitVec.toNat_sub, zext16_toNat, zext16_toNat]
    omega
  refine ⟨?_, ?_, ?_, htemp⟩
  · simp [State.compare, BitVec.le_def]
  · have hz : (s.compare reg m).flag .z = (lo (zext16 reg - zext16 m) == 0) := by
      simp [State.compare]
    rw [hz, isZero_eq, lo_toNat, htemp, decide_eq_decide, ← BitVec.toNat_inj]
    omega
  · have hn : (s.compare reg m).flag .n = (zext16 reg - zext16 m).getLsbD 7 := by
      simp [State.compare]
    rw [hn, word_bit7_eq, htemp, decide_eq_decide]
    omega

/-! ### Flags kept -/

theorem ChangesOnly.flagsKeptOutside {parts : List Part} {s t : State} {written : List Flag}
    (h : ChangesOnly parts s t) (hwritten : ∀ f, .flag f ∈ parts → f ∈ written) :
    FlagsKeptOutside written s t :=
  fun f hf => h.same (.flag f) fun hmem => hf (hwritten f hmem)

/-! ### An instruction that reads its operand -/

/-- `Operand()` writes `fetched` and the bus trace alone (40_step_and_dispatch.md R105). -/
theorem operand_frame (m : Mode) (s : State) :
    (operand m s).2 =
      { s with bus := (operand m s).2.bus, fetched := (operand m s).2.fetched } := by
  cases m <;> rfl

section Reading

variable {s : State} {base : Nat} {signal : Bool} {m : Mode} {use : State → Byte → State}

/-- The operation runs on the operand byte in a state that still has the registers, the flags and
`temp`; only the penalty comes after it (40_step_and_dispatch.md R104). -/
theorem reading_frame (s : State) (base : Nat) (signal : Bool) (m : Mode) (use : State → Byte → State) :
    ∃ bus fetched addrAbs addrRel, s.reading base signal m use =
      (use
        { s with
          cycles := base, bus := bus, fetched := fetched, addrAbs := addrAbs, addrRel := addrRel }
        (operandByte m s)).penalty (signal && (resolve m s).2) := by
  rw [reading_eq, operand_frame, resolve_frame]
  exact ⟨_, _, _, _, rfl⟩

theorem reading_flagsKept {written : List Flag} (h : ∀ u v, FlagsKeptOutside written u (use u v)) :
    FlagsKeptOutside written s (s.reading base signal m use) := by
  obtain ⟨_, _, _, _, ht⟩ := reading_frame s base signal m use
  rw [ht]
  exact h _ _

/-- An operation that writes its result where the operand came from, and else only flags. The result may
depend on the flags before it, as a rotate's does (44_shift_rotate.md R180). -/
theorem reading_modified {r : Byte}
    (huse : ∀ u : State, u.p = s.p →
      ∃ p, use u (operandByte m s) = { u.memWrite u.addrAbs r with p := p }) :
    Modified m r s (s.reading (modifyCycles m) false m use) := by
  obtain ⟨p, huse⟩ := huse ((operand m (resolve m s).1).2.startCycles (modifyCycles m)) (by simp)
  rw [reading_eq, huse]
  refine ⟨?_, stored_one ?_, ?_⟩
  all_goals simp [operandAddr, operandByte, operandBus, replay, replayOp, SurroundingsKept]

end Reading

/-- ADC, and SBC on the complement of its operand (R161, R162). -/
theorem reading_addWithCarry (m : Mode) (s : State) (f : Byte → Byte) :
    let t := s.reading (readCycles m) true m fun u v => u.addWithCarry (f v)
    HoldsSum (f (operandByte m s)) s t ∧ FlagsKeptOutside [.c, .z, .v, .n] s t ∧ t.x = s.x ∧
      t.y = s.y ∧ t.cycles = readCycles m + crossing m s ∧ OperandOnly m s t := by
  obtain ⟨_, _, _, _, ht⟩ :=
    reading_frame s (readCycles m) true m fun u v => u.addWithCarry (f v)
  refine ⟨?_, reading_flagsKept fun u v =>
      (ChangesOnly.addWithCarry u (f v)).flagsKeptOutside (by simp [addParts, znParts]), ?_, ?_,
    reading_cycles fun _ _ => rfl, reading_operandOnly
      (fun u v => ⟨lo (addTemp u.a (f v) (u.flag .c)), _, _, _, _, _, rfl⟩) fun _ _ => rfl⟩
  all_goals rw [ht]
  · exact addWithCarry_holdsSum _ _
  · rfl
  · rfl

/-- AND, ORA and EOR (R163 to R165). -/
theorem reading_combine (m : Mode) (s : State) (f : Byte → Byte → Byte) :
    let t := s.reading (readCycles m) true m fun u v => ({ u with a := f u.a v }).setZN (f u.a v)
    let r := f s.a (operandByte m s)
    t.a = r ∧ ZNOf r t ∧ FlagsKeptOutside [.z, .n] s t ∧ t.x = s.x ∧ t.y = s.y ∧ t.temp = s.temp ∧
      t.cycles = readCycles m + crossing m s ∧ OperandOnly m s t := by
  obtain ⟨_, _, _, _, ht⟩ := reading_frame s (readCycles m) true m fun u v =>
    ({ u with a := f u.a v }).setZN (f u.a v)
  obtain ⟨hzn, hflags⟩ :=
    znOf_of_p (s := s) (v := f s.a (operandByte m s)) (congrArg State.p ht)
  refine ⟨?_, hzn, hflags, ?_, ?_, reading_temp fun _ _ => rfl, reading_cycles fun _ _ => rfl,
    reading_operandOnly (fun u v => ⟨f u.a v, _, _, _, _, _, rfl⟩) fun _ _ => rfl⟩
  all_goals rw [ht]; rfl

/-- CMP, CPX and CPY: `reg` is `A`, `X` or `Y` (R167 to R169). -/
theorem reading_compare {s : State} {reg : State → Byte} (m : Mode) (signal : Bool)
    (hreg : ∀ u : State, u.a = s.a → u.x = s.x → u.y = s.y → reg u = reg s) :
    let t := s.reading (readCycles m) signal m fun u v => u.compare (reg u) v
    let v := operandByte m s
    t.flag .c = decide (v.toNat ≤ (reg s).toNat) ∧ t.flag .z = decide (reg s = v) ∧
      t.flag .n = decide (128 ≤ ((reg s).toNat + 256 - v.toNat) % 256) ∧
      FlagsKeptOutside [.c, .z, .n] s t ∧ t.a = s.a ∧ t.x = s.x ∧ t.y = s.y ∧
      t.temp.toNat = ((reg s).toNat + 65536 - v.toNat) % 65536 ∧
      t.cycles = readCycles m + (signal && (resolve m s).2).toNat ∧ OperandOnly m s t := by
  have huse := hreg ((operand m (resolve m s).1).2.startCycles (readCycles m))
    (by simp) (by simp) (by simp)
  obtain ⟨hc, hz, hn, htemp⟩ := compare_flags
    ((operand m (resolve m s).1).2.startCycles (readCycles m)) (reg s) (operandByte m s)
  refine ⟨?_, ?_, ?_, reading_flagsKept fun u v =>
      (ChangesOnly.compare u (reg u) v).flagsKeptOutside (by simp [compareParts]), ?_, ?_, ?_, ?_,
    reading_cycles fun _ _ => rfl,
    reading_operandOnly (fun u v => ⟨_, _, _, _, _, zext16 (reg u) - zext16 v, rfl⟩) fun _ _ => rfl⟩
  all_goals rw [reading_eq, huse]
  · exact hc
  · exact hz
  · exact hn
  · simp [State.compare]
  · simp [State.compare]
  · simp [State.compare]
  · exact htemp

/-- INC and DEC (R170, R171). -/
theorem reading_modify (m : Mode) (s : State) (f : Byte → Byte) :
    let t := s.reading (modifyCycles m) false m fun u v => (u.memWrite u.addrAbs (f v)).setZN (f v)
    let r := f (operandByte m s)
    ZNOf r t ∧ FlagsKeptOutside [.z, .n] s t ∧ Modified m r s t :=
  and_assoc.mp ⟨znOf_of_p (by simp [reading_eq]), reading_modified fun _ _ => ⟨_, rfl⟩⟩

/-! ### An Implied instruction that counts -/

/-- INX, INY, DEX and DEY (R172 to R175). -/
theorem implied_count {s : State} {op : State → State} {v : Byte}
    (hop : ∀ u, ∃ x y p, op u = { u with x := x, y := y, p := p })
    (hp : (s.implied 2 op).p = znFlags s.p v) :
    let t := s.implied 2 op
    ZNOf v t ∧ FlagsKeptOutside [.z, .n] s t ∧ t.a = s.a ∧ t.sp = s.sp ∧ RegisterOnly s t := by
  choose x y p hop using hop
  obtain rfl : op = fun u => { u with x := x u, y := y u, p := p u } := funext hop
  obtain ⟨hzn, hflags, honly⟩ :=
    implied_znOf (fun u => ⟨_, x u, y u, _, p u, _, rfl⟩) (fun _ => rfl) hp
  exact ⟨hzn, hflags, rfl, rfl, honly⟩

end Sys2Proof.Machine
end

section
/-! The obligations about arithmetic and logic (43_arithmetic_logic.md). -/

namespace Sys2Proof.Machine

/-- Settles O35: the operand is added as it is. -/
theorem adcAddsWithCarry : Obligations.AdcAddsWithCarry := by
  intro m s
  obtain ⟨⟨ha, hc, hv, hzn, htemp⟩, hflags, hrest⟩ := reading_addWithCarry m s id
  exact ⟨_, rfl, ha, hc, hv, hzn, hflags, htemp, hrest⟩

/-- Settles O36: adding the complement subtracts; 0xEB has the meaning of SBC immediate. -/
theorem sbcSubtractsWithBorrow : Obligations.SbcSubtractsWithBorrow := by
  intro m s
  obtain ⟨hsum, hflags, hrest⟩ := reading_addWithCarry m s (· ^^^ 0xFF)
  obtain ⟨ha, hc, hv, htemp⟩ := hsum.difference
  obtain ⟨-, -, -, hzn, -⟩ := hsum
  exact ⟨⟨_, rfl, ha, hc, hv, hzn, hflags, htemp, hrest⟩, fun _ => rfl⟩

/-- Settles O37: the three are one shape, each with its own operation on two bytes. -/
theorem logicCombinesTheOperand : Obligations.LogicCombinesTheOperand := fun m s =>
  ⟨⟨_, rfl, reading_combine m s (· &&& ·)⟩, ⟨_, rfl, reading_combine m s (· ||| ·)⟩,
    ⟨_, rfl, reading_combine m s (· ^^^ ·)⟩⟩

/-- Settles O38: three flag writes and nothing else after the operand's read. -/
theorem bitTestsTheOperand : Obligations.BitTestsTheOperand := by
  intro m s
  have hruns := runsWithin_of_exec (i := .bit m) (s := s) rfl
  refine ⟨_, rfl, ?_, ?_, ?_, hruns.changes.flagsKeptOutside (by simp [footprint]), ?_, ?_, ?_,
    reading_temp fun _ _ => rfl, reading_cycles fun _ _ => rfl,
    reading_operandOnly (fun _ _ => ⟨_, _, _, _, _, _, rfl⟩) fun _ _ => rfl⟩
  all_goals simp [reading_eq, beq_eq_decide]

/-- Settles O39: the three are one compare, each of its own register; CMP alone signals. -/
theorem comparesSetCarryZeroNegative : Obligations.ComparesSetCarryZeroNegative := fun m _ =>
  ⟨⟨_, rfl, reading_compare m true fun _ ha _ _ => ha⟩,
    ⟨_, rfl, reading_compare m false fun _ _ hx _ => hx⟩,
    ⟨_, rfl, reading_compare m false fun _ _ _ hy => hy⟩⟩

/-- Settles O40: both write the operand's address after reading it. -/
theorem incDecModifyMemory : Obligations.IncDecModifyMemory := fun m s =>
  ⟨⟨BitVec.toNat_add _ 1, sub_one_toNat _⟩, ⟨_, rfl, reading_modify m s (· + 1)⟩,
    ⟨_, rfl, reading_modify m s (· - 1)⟩⟩

/-- Settles O41: each writes its own register and the two flags. -/
theorem indexRegistersCount : Obligations.IndexRegistersCount := fun s =>
  ⟨⟨_, rfl, BitVec.toNat_add s.x 1, rfl, implied_count (fun _ => ⟨_, _, _, rfl⟩) rfl⟩,
    ⟨_, rfl, BitVec.toNat_add s.y 1, rfl, implied_count (fun _ => ⟨_, _, _, rfl⟩) rfl⟩,
    ⟨_, rfl, sub_one_toNat s.x, rfl, implied_count (fun _ => ⟨_, _, _, rfl⟩) rfl⟩,
    ⟨_, rfl, sub_one_toNat s.y, rfl, implied_count (fun _ => ⟨_, _, _, rfl⟩) rfl⟩⟩

end Sys2Proof.Machine
end

section
/-! SUPPORT. The one-bit moves in numbers, what the shape of a shift leaves in its two forms, and the
accumulator ROL as a rotation of nine bits (44_shift_rotate.md R180 to R184). -/

namespace Sys2Proof.Machine

/-! ### The results as numbers -/

theorem shiftLeft_toNat (v : Byte) (k : Nat) : (v <<< k).toNat = 2 ^ k * v.toNat % 256 := by
  rw [BitVec.toNat_shiftLeft, Nat.shiftLeft_eq, Nat.mul_comm]

theorem shiftRight_one_toNat (v : Byte) : (v >>> 1).toNat = v.toNat / 2 := by
  rw [BitVec.toNat_ushiftRight, Nat.shiftRight_eq_div_pow, Nat.pow_one]

theorem bit0_eq (v : Byte) : v.getLsbD 0 = decide (v.toNat % 2 = 1) := Nat.testBit_zero v.toNat

/-- What enters a rotate at the free end does not meet the bits that moved. -/
theorem shiftLeft_or_toNat {k : Nat} (hk : k ≤ 8) (v : Byte) {w : Byte} (hw : w.toNat < 2 ^ k) :
    (v <<< k ||| w).toNat = 2 ^ k * v.toNat % 256 + w.toNat := by
  have hsplit : 256 = 2 ^ k * 2 ^ (8 - k) := by rw [← Nat.pow_add, Nat.add_sub_cancel' hk]
  rw [BitVec.toNat_or, shiftLeft_toNat, hsplit, Nat.mul_mod_mul_left,
    Nat.two_pow_add_eq_or_of_lt hw]

theorem carryByte_toNat (c : Bool) : (BitVec.ofNat 8 c.toNat).toNat = c.toNat := by
  cases c <;> rfl

/-- The result of ROL (R183). -/
theorem rotateLeft_toNat (v : Byte) (c : Bool) :
    (v <<< 1 ||| BitVec.ofNat 8 c.toNat).toNat = 2 * v.toNat % 256 + c.toNat := by
  have hfits : (BitVec.ofNat 8 c.toNat).toNat < 2 ^ 1 := by
    rw [carryByte_toNat]
    exact Bool.toNat_lt c
  rw [shiftLeft_or_toNat (by decide) v hfits, carryByte_toNat, Nat.pow_one]

/-- The result of ROR (R184). -/
theorem rotateRight_toNat (v : Byte) (c : Bool) :
    (BitVec.ofNat 8 c.toNat <<< 7 ||| v >>> 1).toNat = v.toNat / 2 + 128 * c.toNat := by
  have hfits : (v >>> 1).toNat < 2 ^ 7 := by
    rw [shiftRight_one_toNat]
    exact Nat.div_lt_of_lt_mul v.isLt
  have hc := Bool.toNat_le c
  rw [shiftLeft_or_toNat (by decide) _ hfits, carryByte_toNat, shiftRight_one_toNat]
  omega

/-! ### The shape of the shifts and rotates -/

section Shifting

variable (s : State) (m : Mode) (out : Byte → Bool) (result : Byte → Bool → Byte)

/-- `P` after a shift: C from the bit shifted out, then Z and N from the result (R180). -/
theorem shifting_p :
    (s.shifting m out result).p =
      znFlags (s.withFlag .c (out (operandByte m s))).p (result (operandByte m s) (s.flag .c)) := by
  have hwrite : ∀ u v, (writeBack m u v).p = u.p := fun u v => by cases m <;> rfl
  rw [State.shifting, reading_eq, penalty_p, hwrite]
  simp [State.flag]

theorem shifting_carry : (s.shifting m out result).flag .c = out (operandByte m s) := by
  rw [State.flag, shifting_p, getFlag_znFlags, withFlag_p, getFlag_setFlag]
  rfl

theorem shifting_znOf : ZNOf (result (operandByte m s) (s.flag .c)) (s.shifting m out result) :=
  (znOf_of_p (shifting_p s m out result)).1

theorem shifting_flagsKept : FlagsKeptOutside [.c, .z, .n] s (s.shifting m out result) :=
  (RunsWithin.shifting s m out result).changes.flagsKeptOutside
    (by cases m <;> simp [znParts, resultParts])

/-- The accumulator form is an operation on `A` and the flags. -/
theorem shifting_imp :
    s.shifting .imp out result = s.implied 2 fun u =>
      { (u.withFlag .c (out u.a)).setZN (result u.a (u.flag .c)) with
        a := result u.a (u.flag .c) } := rfl

theorem shifting_imp_registerOnly : RegisterOnly s (s.shifting .imp out result) := by
  rw [shifting_imp]
  exact implied_registerOnly (fun u => ⟨result u.a (u.flag .c), _, _, _, _, _, rfl⟩) fun _ => rfl

/-- Every other form writes its result where the operand came from. -/
theorem shifting_modified {m : Mode} (hm : m ≠ .imp) :
    Modified m (result (operandByte m s) (s.flag .c)) s (s.shifting m out result) :=
  reading_modified fun u hu => ⟨_, by rw [flag_congr hu, writeBack_mem hm]; rfl⟩

end Shifting

/-- An instruction of the shape does what the numbers of its result and its bit shifted out say. -/
theorem shifts_of_exec {mk : Mode → Instr} {out : Byte → Bool} {result : Byte → Bool → Byte}
    {resultNat : Nat → Nat → Nat} {outNat : Nat → Prop}
    (hexec : ∀ m s, exec (mk m) s = .next (s.shifting m out result))
    (hresult : ∀ v c, (result v c).toNat = resultNat v.toNat c.toNat)
    (hout : ∀ v, out v = true ↔ outNat v.toNat) : Shifts mk resultNat outNat := by
  intro m s v
  refine ⟨_, hexec m s, ?_, shifting_flagsKept s m out result, ?_⟩
  · rw [shifting_carry]
    exact hout v
  · split
    · next hm =>
      subst hm
      exact ⟨hresult _ _, shifting_znOf s .imp out result, rfl, rfl, rfl,
        shifting_imp_registerOnly s out result⟩
    · next hm =>
      exact ⟨_, hresult _ _, shifting_znOf s m out result, shifting_modified s out result hm⟩

/-! ### The accumulator ROL as a rotation -/

/-- `A` below the carry: the nine bits that an accumulator ROL rotates (R183). -/
def State.ring (s : State) : BitVec 9 := BitVec.cons (s.flag .c) s.a

theorem carry_and_a_of_ring_eq {s t : State} (h : t.ring = s.ring) :
    t.flag .c = s.flag .c ∧ t.a = s.a := by
  constructor
  · simpa only [State.ring, BitVec.msb_cons] using congrArg BitVec.msb h
  · simpa only [State.ring, BitVec.setWidth_cons] using congrArg (BitVec.setWidth 8) h

/-- The byte and the bit shifted out of it, as ROL computes them, are the nine bits moved up by one
place, the old carry into bit 0. -/
theorem getLsbD_cons_rotateLeft (v : Byte) (c : Bool) {i : Nat} (hi : i < 9) :
    (BitVec.cons (v.getLsbD 7) (v <<< 1 ||| BitVec.ofNat 8 c.toNat)).getLsbD ((i + 1) % 9) =
      (BitVec.cons c v).getLsbD i := by
  rw [BitVec.getLsbD_cons, BitVec.getLsbD_cons]
  obtain rfl | rfl | hlow : i = 8 ∨ i = 7 ∨ i < 7 := by omega
  · cases c <;> simp
  · simp
  · have hup : (i + 1) % 9 = i + 1 := Nat.mod_eq_of_lt (by omega)
    have hin : i + 1 < 8 := by omega
    rw [hup, if_neg hin.ne, if_neg (by omega)]
    cases c <;> simp [hin, BitVec.getLsbD_eq_getElem (show i < 8 by omega)]

/-- One ROL moves each of the nine bits up by one place (R183). -/
theorem rol_ring {s t : State} (h : exec (.rol .imp) s = .next t) {i : Nat} (hi : i < 9) :
    t.ring.getLsbD ((i + 1) % 9) = s.ring.getLsbD i := by
  obtain rfl : s.shifting .imp _ _ = t := Host.Outcome.next.inj h
  rw [State.ring, shifting_carry]
  exact getLsbD_cons_rotateLeft s.a (s.flag .c) hi

/-- So `k` of them move each by `k` places around the ring. -/
theorem iterate_rol_ring {again : Host.Outcome State Fault Refusal → Host.Outcome State Fault Refusal}
    (hagain : ∀ t, again (.next t) = exec (.rol .imp) t) (s : State) (k : Nat) :
    ∃ t, again^[k] (.next s) = .next t ∧
      ∀ i < 9, t.ring.getLsbD ((i + k) % 9) = s.ring.getLsbD i := by
  induction k with
  | zero => exact ⟨s, rfl, fun i hi => by rw [Nat.add_zero, Nat.mod_eq_of_lt hi]⟩
  | succ k ih =>
    obtain ⟨t, hrun, hring⟩ := ih
    obtain ⟨u, hstep, -⟩ := exec_runsWithin (.rol .imp) t
    refine ⟨u, ?_, fun i hi => ?_⟩
    · rw [Function.iterate_succ_apply', hrun, hagain, hstep]
    · rw [← hring i hi, ← rol_ring hstep (Nat.mod_lt _ (by decide)), Nat.mod_add_mod, Nat.add_assoc]

end Sys2Proof.Machine
end

section
/-! The obligations about the shifts and rotates (44_shift_rotate.md). -/

namespace Sys2Proof.Machine

/-- Settles O42: the four are one shape, each with its own result and bit shifted out. -/
theorem shiftsAndRotatesMoveOneBit : Obligations.ShiftsAndRotatesMoveOneBit := by
  have hhigh : ∀ v : Byte, v.getLsbD 7 = true ↔ 128 ≤ v.toNat := fun v => by
    rw [bit7_eq, decide_eq_true_eq]
  have hlow : ∀ v : Byte, v.getLsbD 0 = true ↔ v.toNat % 2 = 1 := fun v => by
    rw [bit0_eq, decide_eq_true_eq]
  exact ⟨shifts_of_exec (fun _ _ => rfl) (fun v _ => shiftLeft_toNat v 1) hhigh,
    shifts_of_exec (fun _ _ => rfl) (fun v _ => shiftRight_one_toNat v) hlow,
    shifts_of_exec (fun _ _ => rfl) rotateLeft_toNat hhigh,
    shifts_of_exec (fun _ _ => rfl) rotateRight_toNat hlow⟩

/-- Settles O43: nine moves by one place of nine are none. -/
theorem nineRotatesRestore : Obligations.NineRotatesRestore := by
  intro s again
  obtain ⟨t, hrun, hring⟩ := iterate_rol_ring (again := again) (fun _ => rfl) s 9
  have hsame : t.ring = s.ring := BitVec.eq_of_getLsbD_eq fun i hi => by
    rw [← hring i hi, Nat.add_mod_right, Nat.mod_eq_of_lt hi]
  obtain ⟨hcarry, ha⟩ := carry_and_a_of_ring_eq hsame
  exact ⟨t, hrun, ha, hcarry⟩

end Sys2Proof.Machine
end

section
/-! SUPPORT. The target and the cost of a branch in numbers, the bytes a run of writes stores, and the
two halves of a subroutine call: a pushed word and a popped one (45_branch_jump.md R190 to R202,
20_memory.md R62). -/

namespace Sys2Proof.Machine

/-! ### Branches (R191) -/

/-- The target is the signed sum, modulo the address space. -/
theorem add_sext16_toNat (w : Word) (b : Byte) :
    ((w + sext16 b).toNat : Int) = ((w.toNat : Int) + b.toInt) % 65536 := by
  have hsext : (sext16 b).toInt = b.toInt := BitVec.toInt_signExtend_of_le (by decide)
  rw [← hsext, BitVec.toInt_eq_toNat_cond, BitVec.toNat_add]
  split <;> omega

theorem hi_eq_hi_iff (u w : Word) : hi u = hi w ↔ u.toNat / 256 = w.toNat / 256 := by
  rw [← BitVec.toNat_inj, hi_toNat, hi_toNat]

/-- A branch taken costs three cycles in its page and four across (R191, 92_eei_decisions.md D22). -/
theorem branch_taken_cycles (s : State) (b : Byte) :
    (s.branch true b).cycles =
      if (s.branch true b).pc.toNat / 256 = s.pc.toNat / 256 then 3 else 4 := by
  rw [branch_taken]
  dsimp only
  split
  · next h => rw [bne_eq_false_iff_eq.mpr ((hi_eq_hi_iff _ _).mpr h), Bool.toNat_false]
  · next h => rw [bne_iff_ne.mpr (mt (hi_eq_hi_iff _ _).mp h), Bool.toNat_true]

/-- Taken or not, a branch writes `pc`, `addr_abs`, `addr_rel` and the countdown alone. -/
theorem branch_frame (s : State) (cond : Bool) (b : Byte) :
    ∃ pc addrAbs cycles, s.branch cond b =
      { s with pc := pc, addrAbs := addrAbs, cycles := cycles, addrRel := sext16 b } := by
  cases cond with
  | false => exact ⟨_, _, _, branch_not_taken s b⟩
  | true => exact ⟨_, _, _, branch_taken s b⟩

/-- An instruction that is `Branch` on a test of one flag. -/
theorem branches_of_exec {mk : Byte → Instr} {cond : State → Bool} {f : Flag} {taken : Bool}
    (hexec : ∀ b s, exec (mk b) s = .next (s.branch (cond s) b))
    (hcond : ∀ s, cond s = true ↔ s.flag f = taken) : Branches mk f taken := by
  intro b s
  refine ⟨_, hexec b s, fun htaken => ?_, fun hnot => ?_, ?_⟩
  · rw [(hcond s).mpr htaken]
    exact ⟨add_sext16_toNat s.pc b, rfl, branch_taken_cycles s b⟩
  · rw [Bool.eq_false_iff.mpr (mt (hcond s).mp hnot), branch_not_taken]
    exact ⟨rfl, rfl, rfl⟩
  · obtain ⟨_, _, _, hframe⟩ := branch_frame s (cond s) b
    rw [hframe]
    exact ⟨rfl, rfl, rfl, rfl, rfl, rfl, fun _ => rfl, rfl, rfl, rfl, rfl, rfl, rfl, rfl, rfl⟩

/-! ### Several writes (20_memory.md R63) -/

/-- A run of writes leaves the bytes at other addresses alone. -/
theorem byteAt_replay_writes_of_notMem (p : Platform) (m : Memory) {writes : List (Word × Byte)}
    {a : Word} (ha : a ∉ writes.map Prod.fst) :
    (replay p (writes.map fun w => .write w.1 w.2) m).byteAt a.toNat = m.byteAt a.toNat := by
  induction writes with
  | nil => rfl
  | cons w rest ih =>
    rw [List.map_cons, List.mem_cons, not_or] at ha
    obtain ⟨hne, hrest⟩ := ha
    rw [List.map_cons, byteAt_replay_write, if_neg fun h => hne h.1.symm, ih hrest]

/-- At different addresses each write keeps its byte, where plain memory takes it. -/
theorem byteAt_replay_writes_of_mem (p : Platform) (m : Memory) {writes : List (Word × Byte)}
    (hdistinct : (writes.map Prod.fst).Nodup) {w : Word × Byte} (hw : w ∈ writes) :
    (replay p (writes.map fun w => .write w.1 w.2) m).byteAt w.1.toNat =
      if ramAt p w.1 then w.2 else m.byteAt w.1.toNat := by
  induction writes with
  | nil => exact absurd hw List.not_mem_nil
  | cons first rest ih =>
    rw [List.map_cons, List.nodup_cons] at hdistinct
    obtain ⟨hnew, hrest⟩ := hdistinct
    rw [List.map_cons, byteAt_replay_write]
    rcases List.mem_cons.mp hw with rfl | hlater
    · simp only [true_and, byteAt_replay_writes_of_notMem p m hnew]
    · have hne : first.1 ≠ w.1 := fun h => hnew (h ▸ List.mem_map_of_mem hlater)
      rw [if_neg fun h => hne h.1, ih hrest hlater]

/-- Writes to different addresses, oldest first, store their bytes. -/
theorem stored_of_replay {writes : List (Word × Byte)} {s t : State}
    (hdistinct : (writes.map Prod.fst).Nodup)
    (hmem : t.mem = replay s.platform (writes.reverse.map fun w => .write w.1 w.2) s.mem) :
    Stored writes s t := by
  rw [Stored, hmem]
  constructor
  · intro w hw
    refine byteAt_replay_writes_of_mem _ _ ?_ (List.mem_reverse.mpr hw)
    rwa [List.map_reverse, List.nodup_reverse]
  · intro a ha
    refine byteAt_replay_writes_of_notMem _ _ ?_
    rwa [List.map_reverse, List.mem_reverse]

/-! ### Words on the stack (R62) -/

/-- A pushed word: the high byte where `SP` points, the low byte below it. -/
theorem pushWord_stored (s : State) (w : Word) :
    Stored [(stackAddr s.sp, hi w), (stackAddr (s.sp - 1), lo w)] s (s.pushWord w) := by
  refine stored_of_replay ?_ rfl
  have hbelow : s.sp ≠ s.sp - 1 := by bv_omega
  simpa using hbelow

theorem pushWord_bus (s : State) (w : Word) :
    (s.pushWord w).bus =
      [.write (stackAddr (s.sp - 1)) (lo w), .write (stackAddr s.sp) (hi w)] ++ s.bus := rfl

/-- The two pops of a word: the low byte, then the high one, and `SP` two higher. -/
theorem popWord_eq (s : State) :
    s.popWord =
      (join (popHigh s) (popLow s),
        { s with
          sp := s.sp + 2
          bus := [.read (stackAddr (s.sp + 2)) (popHigh s), .read (stackAddr (s.sp + 1)) (popLow s)] ++
            s.bus }) := by
  have htwo : s.sp + 1 + 1 = s.sp + 2 := by bv_omega
  simp only [State.popWord, State.pop, State.memRead, htwo]
  rfl

/-- A word pushed onto plain memory pops again. -/
theorem popWord_pushWord {s : State} (hram : StackRam s 2) (w : Word) :
    (s.pushWord w).popWord.1 = w := by
  have hhigh : ramAt s.platform (stackAddr s.sp) = true := by simpa using hram 0 (by decide)
  have hlow : ramAt s.platform (stackAddr (s.sp - 1)) = true := hram 1 (by decide)
  have hone : (s.pushWord w).sp + 1 = s.sp - 1 := by rw [pushWord_sp]; bv_omega
  have htwo : (s.pushWord w).sp + 2 = s.sp := by rw [pushWord_sp]; bv_omega
  obtain ⟨hbytes, -⟩ := pushWord_stored s w
  have hbyteHigh := hbytes (stackAddr s.sp, hi w) (by simp)
  have hbyteLow := hbytes (stackAddr (s.sp - 1), lo w) (by simp)
  rw [if_pos hhigh] at hbyteHigh
  rw [if_pos hlow] at hbyteLow
  rw [popWord_plain (hone ▸ plainAt_of_ramAt hlow) (htwo ▸ plainAt_of_ramAt hhigh), hone, htwo,
    hbyteHigh, hbyteLow, join_hi_lo]

/-! ### Jumps -/

/-- JMP in terms of the address of the state before it (R200). -/
theorem exec_jmp (m : Mode) (s : State) :
    exec (.jmp m) s =
      .next { (resolve m s).1.startCycles (jumpCycles m) with pc := operandAddr m s } := by
  simp only [exec, execJmp, State.address, resolve_startCycles, startCycles_addrAbs, operandAddr]

/-- JSR (R201): the Absolute mode, one pushed word, the jump. -/
theorem exec_jsr (w : Word) (s : State) :
    exec (.jsr w) s =
      .next { ({ s with cycles := 6, addrAbs := w } : State).pushWord (s.pc - 1) with pc := w } := rfl

/-- RTS (R202): one popped word; the pops do not see the byte the Implied mode stages. -/
theorem exec_rts (s : State) :
    exec .rts s =
      .next { s.popWord.2 with pc := s.popWord.1 + 1, fetched := s.a, cycles := 6 } := rfl

end Sys2Proof.Machine
end

section
/-! The obligations about branches and jumps (45_branch_jump.md). -/

namespace Sys2Proof.Machine

/-- Settles O44: the eight are one `Branch`, each on its own flag and value. -/
theorem branchesTestTheirFlag : Obligations.BranchesTestTheirFlag := by
  have hclear : ∀ (f : Flag) (s : State), (!s.flag f) = true ↔ s.flag f = false := fun _ _ =>
    iff_of_eq (Bool.not_eq_true' _)
  exact ⟨branches_of_exec (fun _ _ => rfl) (hclear .c),
    branches_of_exec (fun _ _ => rfl) fun _ => Iff.rfl,
    branches_of_exec (fun _ _ => rfl) fun _ => Iff.rfl,
    branches_of_exec (fun _ _ => rfl) (hclear .z),
    branches_of_exec (fun _ _ => rfl) fun _ => Iff.rfl,
    branches_of_exec (fun _ _ => rfl) (hclear .n),
    branches_of_exec (fun _ _ => rfl) (hclear .v),
    branches_of_exec (fun _ _ => rfl) fun _ => Iff.rfl⟩

/-- Settles O46: one pushed word between the mode routine and the jump. -/
theorem jsrPushesItsLastByte : Obligations.JsrPushesItsLastByte := fun w s =>
  ⟨_, exec_jsr w s, rfl, sub_one_sub_one s.sp, rfl,
    pushWord_stored { s with cycles := 6, addrAbs := w } (s.pc - 1),
    pushWord_bus { s with cycles := 6, addrAbs := w } (s.pc - 1), rfl, rfl, rfl, rfl,
    ⟨rfl, rfl, rfl, rfl⟩, surroundings_of_exec (exec_jsr w s)⟩

/-- Settles O47: one popped word, and one more. -/
theorem rtsReturnsPastThePoppedAddress : Obligations.RtsReturnsPastThePoppedAddress := by
  intro s
  refine ⟨_, exec_rts s, ?_⟩
  rw [popWord_eq]
  have hpc : (join (popHigh s) (popLow s) + 1).toNat =
      ((popHigh s).toNat * 256 + (popLow s).toNat + 1) % 65536 := by
    rw [BitVec.toNat_add, join_toNat]
    rfl
  exact ⟨hpc, rfl, rfl, rfl, rfl, rfl, rfl, rfl, fun _ => rfl, ⟨rfl, rfl, rfl, rfl⟩,
    ⟨rfl, rfl, rfl, rfl, rfl⟩⟩

/-- Settles O48: RTS pops the word JSR pushed, the address of JSR's last byte, and adds one. -/
theorem rtsUndoesJsr : Obligations.RtsUndoesJsr := by
  intro w s t hram hjsr
  obtain rfl := Host.Outcome.next.inj ((exec_jsr w s).symm.trans hjsr)
  have hword := popWord_pushWord (s := { s with cycles := 6, addrAbs := w }) hram (s.pc - 1)
  refine ⟨_, exec_rts _, ?_, ?_⟩
  · exact (congrArg (· + 1) hword).trans (BitVec.sub_add_cancel s.pc 1)
  · show s.sp - 1 - 1 + 1 + 1 = s.sp
    bv_omega

/-- Settles O45: after the mode routine only `pc` is written. -/
theorem jmpGoesToTheAddress : Obligations.JmpGoesToTheAddress := fun m s hm =>
  ⟨_, exec_jmp m s, rfl, rfl, rfl, resolve_a m s, resolve_x m s, resolve_y m s, resolve_sp m s,
    resolve_p m s, memoryKept_of_mem_eq (resolve_mem m s),
    ⟨resolve_fetched hm s, resolve_temp m s, rfl, rfl⟩, surroundings_of_exec (exec_jmp m s)⟩

end Sys2Proof.Machine
end

section
/-! SUPPORT. The status byte on its way to the stack and back, one byte pushed and popped, the bytes an
interrupt entry stores, and the meaning of each stack instruction in terms of the state before it
(46_stack_flags_system.md R210 to R228, 60_exceptions.md R242 to R250). -/

namespace Sys2Proof.Machine

/-! ### The status byte on the stack (R211) -/

/-- Instructions push the status with Break and Unused set, whatever they were. -/
theorem pushedStatus_true (p : Byte) : pushedStatus p true = p ||| 0x30 := by
  apply status_ext
  intro f
  cases f <;> simp [getFlag, pushedStatus, Flag.bit]

/-- A register with Unused set keeps its status over a push and a pop: Break is its own. -/
theorem poppedStatus_pushedStatus {p : Byte} (hu : getFlag p .u = true) (b : Bool) :
    poppedStatus p (pushedStatus p b) = p := by
  apply status_ext
  intro f
  cases f <;> simp [hu]

theorem poppedStatus_of_break_clear {p : Byte} (hb : getFlag p .b = false) (v : Byte) :
    poppedStatus p v = (v &&& 0xCF) ||| 0x20 := by
  apply status_ext
  intro f
  rw [getFlag_poppedStatus, hb]
  cases f <;> simp [getFlag, Flag.bit]

/-- What a popped status byte says of each flag of the register. -/
theorem flags_of_poppedStatus {v : Byte} {s t : State} (h : t.p = poppedStatus s.p v) :
    (∀ f, f ≠ .b → f ≠ .u → t.flag f = getFlag v f) ∧ t.flag .u = true ∧ t.flag .b = s.flag .b := by
  have hflag : ∀ f, t.flag f = getFlag (poppedStatus s.p v) f := fun f => by rw [State.flag, h]
  simp only [hflag, getFlag_poppedStatus]
  exact ⟨fun f hb hu => by rw [if_neg hu, if_neg hb], rfl, rfl⟩

/-! ### One byte pushed, one byte popped (R62) -/

theorem push_stored (s : State) (v : Byte) : Stored [(stackAddr s.sp, v)] s (s.push v) :=
  stored_one rfl

/-- A byte pushed onto plain memory pops again. -/
theorem popLow_push {s : State} (hram : StackRam s 1) (v : Byte) : popLow (s.push v) = v := by
  obtain ⟨-, -, -, -, hback⟩ := pushThenPop s v
  obtain ⟨hvalue, -⟩ := hback (by simpa using hram 0 (by decide))
  exact hvalue

/-! ### The instructions in terms of the state before them -/

theorem exec_pha (s : State) :
    exec .pha s = .next { s.push s.a with fetched := s.a, cycles := 3 } := rfl

theorem exec_php (s : State) :
    exec .php s = .next { s.push (s.p ||| 0x30) with fetched := s.a, cycles := 3 } := by
  rw [← pushedStatus_true]
  rfl

/-- PLA (R214): the pop does not see the accumulator that the Implied mode stages. -/
theorem exec_pla (s : State) :
    exec .pla s =
      .next { s.pop.2 with
        a := popLow s, p := znFlags s.p (popLow s), fetched := s.a, cycles := 4 } := rfl

theorem exec_plp (s : State) :
    exec .plp s =
      .next { s.pop.2 with p := poppedStatus s.p (popLow s), fetched := s.a, cycles := 4 } := rfl

/-- Where BRK's interrupt entry starts: the accumulator staged, the cost loaded, `pc` past the padding
byte (R121, R224). -/
def State.pastPadding (s : State) : State := { s with pc := s.pc + 1, fetched := s.a, cycles := 7 }

theorem exec_brk (s : State) : exec .brk s = .next (s.pastPadding.enterInterrupt true 0xFFFE) := rfl

/-- RTI (R225): a popped word after the status. -/
theorem exec_rti (s : State) :
    exec .rti s =
      .next { s.pop.2.popWord.2 with
        p := poppedStatus s.p (popLow s), pc := s.pop.2.popWord.1, fetched := s.a, cycles := 6 } := rfl

/-- A trap slot (R226): the Implied mode grants no extra cycle, whatever the slot signals
(30_encoding.md R87). -/
theorem exec_trap (opcode : Byte) (s : State) :
    exec (.trap opcode) s =
      .next { s with fetched := s.a, cycles := trapCycles s.platform opcode } := by
  have hnone : exec (.trap opcode) s =
      .next ((s.address (trapCycles s.platform opcode) .imp).1.penalty (opSignal opcode && false)) := rfl
  rw [Bool.and_false] at hnone
  exact hnone

/-- A two-cycle instruction whose operation writes one flag. -/
theorem writesFlag_of_exec {i : Instr} {f : Flag} {v : Bool}
    (hexec : ∀ s, exec i s = .next (s.implied 2 fun u => u.withFlag f v)) : WritesFlag i f v := by
  intro s
  refine ⟨_, hexec s, ?_, ?_, rfl, rfl, rfl, rfl,
    implied_registerOnly (fun _ => ⟨_, _, _, _, _, _, rfl⟩) fun _ => rfl⟩
  · rw [implied_eq, flag_withFlag, if_pos rfl]
  · intro g hg
    rw [implied_eq, flag_withFlag, if_neg (mt List.mem_singleton.mpr hg)]
    rfl

/-! ### Interrupt entry (60_exceptions.md R242, R243) -/

/-- The three bytes an interrupt entry stores: the return address above the status. -/
theorem enterInterrupt_stored (s : State) (b : Bool) (vector : Word) :
    Stored [(stackAddr s.sp, hi s.pc), (stackAddr (s.sp - 1), lo s.pc),
      (stackAddr (s.sp - 2), pushedStatus s.p b)] s (s.enterInterrupt b vector) := by
  refine stored_of_replay ?_ (enterInterrupt_mem s b vector)
  have hone : s.sp ≠ s.sp - 1 := by bv_omega
  have htwo : s.sp ≠ s.sp - 2 := by bv_omega
  have hbetween : s.sp - 1 ≠ s.sp - 2 := by bv_omega
  simpa [hbetween] using And.intro hone htwo

theorem enterInterrupt_sp_three (s : State) (b : Bool) (vector : Word) :
    (s.enterInterrupt b vector).sp = s.sp - 3 := by
  rw [enterInterrupt_sp, sub_one_sub_one s.sp, sub_two_sub_one]

/-- An interrupt entry sets Interrupt-disable and no other flag. -/
theorem enterInterrupt_flags (s : State) (b : Bool) (vector : Word) :
    (s.enterInterrupt b vector).flag .i = true ∧
      FlagsKeptOutside [.i] s (s.enterInterrupt b vector) := by
  constructor
  · rw [State.flag, enterInterrupt_p, getFlag_setFlag, if_pos rfl]
  · exact (ChangesOnly.enterInterrupt s b vector).flagsKeptOutside (by simp)

end Sys2Proof.Machine
end

section
/-! The obligations about the stack, the flags and the system instructions
(46_stack_flags_system.md). -/

namespace Sys2Proof.Machine

/-- Settles O50: one popped byte, into `A` with Z and N or into the status. -/
theorem pullsLoadOneByte : Obligations.PullsLoadOneByte := by
  intro s v post
  have hpost : ∀ a p, post { s.pop.2 with a := a, p := p, fetched := s.a, cycles := 4 } := fun _ _ =>
    ⟨rfl, rfl, rfl, rfl, rfl, rfl, fun _ => rfl, ⟨rfl, rfl, rfl, rfl⟩, ⟨rfl, rfl, rfl, rfl, rfl⟩⟩
  constructor
  · obtain ⟨hzn, hflags⟩ := znOf_of_p (s := s) (t := { s.pop.2 with p := znFlags s.p v }) rfl
    exact ⟨_, exec_pla s, rfl, hzn, hflags, hpost v _⟩
  · obtain ⟨hloaded, hunused, hbreak⟩ :=
      flags_of_poppedStatus (s := s) (t := { s.pop.2 with p := poppedStatus s.p v }) rfl
    exact ⟨_, exec_plp s, hloaded, hunused, hbreak, rfl, hpost s.a _⟩

/-- Settles O51: the pop reads the byte just pushed, and the register's own Unused and Break make up
for the two bits the stack byte forces. -/
theorem statusRoundTrip : Obligations.StatusRoundTrip := by
  intro s t hu hb hram
  have hback : s.sp - 1 + 1 = s.sp := BitVec.sub_add_cancel s.sp 1
  constructor
  · intro hphp
    obtain rfl := Host.Outcome.next.inj ((exec_php s).symm.trans hphp)
    have hpopped := popLow_push hram (s.p ||| 0x30)
    refine ⟨⟨_, exec_plp _, ?_, hback⟩, ⟨_, exec_pla _, hpopped, hback⟩⟩
    calc poppedStatus s.p (popLow (s.push (s.p ||| 0x30)))
      _ = poppedStatus s.p (pushedStatus s.p true) := by rw [hpopped, pushedStatus_true]
      _ = s.p := poppedStatus_pushedStatus hu true
  · intro hpha
    obtain rfl := Host.Outcome.next.inj ((exec_pha s).symm.trans hpha)
    refine ⟨_, exec_plp _, ?_, hback⟩
    calc poppedStatus s.p (popLow (s.push s.a))
      _ = poppedStatus s.p s.a := by rw [popLow_push hram]
      _ = (s.a &&& 0xCF) ||| 0x20 := poppedStatus_of_break_clear hb s.a

/-- Settles O54: the shared interrupt entry, one byte further on, with Break set in the pushed status. -/
theorem brkEntersTheInterrupt : Obligations.BrkEntersTheInterrupt := by
  intro s
  simp only [← pushedStatus_true]
  obtain ⟨hset, hkept⟩ := enterInterrupt_flags s.pastPadding true 0xFFFE
  exact ⟨_, exec_brk s, enterInterrupt_pc s.pastPadding true 0xFFFE,
    enterInterrupt_sp_three _ _ _, hset, hkept, enterInterrupt_cycles _ _ _,
    enterInterrupt_bus s.pastPadding true 0xFFFE, enterInterrupt_stored s.pastPadding true 0xFFFE,
    enterInterrupt_a _ _ _, enterInterrupt_x _ _ _, enterInterrupt_y _ _ _,
    ⟨enterInterrupt_fetched _ _ _, enterInterrupt_temp _ _ _, enterInterrupt_addrAbs _ _ _,
      enterInterrupt_addrRel _ _ _⟩,
    surroundings_of_exec (exec_brk s)⟩

/-- Settles O55: the word is popped after the status byte, and jumped to as it is. -/
theorem rtiRestoresStatusAndPc : Obligations.RtiRestoresStatusAndPc := by
  intro s st popped
  have htwo : s.sp + 1 + 1 = s.sp + 2 := by bv_omega
  have hthree : s.sp + 1 + 2 = s.sp + 3 := by bv_omega
  obtain ⟨hloaded, hunused, hbreak⟩ :=
    flags_of_poppedStatus (s := s) (t := { s with p := poppedStatus s.p st }) rfl
  refine ⟨_, exec_rti s, hloaded, hunused, hbreak, ?_⟩
  rw [popWord_eq, ← hthree, ← htwo]
  exact ⟨rfl, rfl, rfl, rfl, rfl, rfl, rfl, fun _ => rfl, ⟨rfl, rfl, rfl, rfl⟩,
    ⟨rfl, rfl, rfl, rfl, rfl⟩⟩

/-- Settles O49: one push, of `A` or of the status with Break and Unused set. -/
theorem pushesStoreOneByte : Obligations.PushesStoreOneByte := by
  intro s post
  have hpost : ∀ v, post v { s.push v with fetched := s.a, cycles := 3 } := fun v =>
    ⟨rfl, push_stored s v, rfl, rfl, rfl, rfl, rfl, rfl, rfl, ⟨rfl, rfl, rfl, rfl⟩,
      ⟨rfl, rfl, rfl, rfl, rfl⟩⟩
  exact ⟨⟨_, exec_pha s, hpost s.a⟩, ⟨_, exec_php s, hpost (s.p ||| 0x30)⟩⟩

/-- Settles O52: the seven are one shape, each with its own flag and value. -/
theorem flagInstructionsWriteOneFlag : Obligations.FlagInstructionsWriteOneFlag :=
  ⟨writesFlag_of_exec fun _ => rfl, writesFlag_of_exec fun _ => rfl, writesFlag_of_exec fun _ => rfl,
    writesFlag_of_exec fun _ => rfl, writesFlag_of_exec fun _ => rfl, writesFlag_of_exec fun _ => rfl,
    writesFlag_of_exec fun _ => rfl⟩

/-- Settles O53: NOP is the Implied mode and no operation; a trap slot is the same at its own cost. -/
theorem nopAndTrapsDoNothing : Obligations.NopAndTrapsDoNothing := fun s opcode =>
  ⟨rfl, exec_trap opcode s⟩

end Sys2Proof.Machine
end

section
/-! SUPPORT. `Irq` and `Nmi` as one service of an interrupt, what it leaves in the terms of the
statements, and the RTI after an interrupt entry (60_exceptions.md R242 to R252,
46_stack_flags_system.md R225). -/

namespace Sys2Proof.Machine

/-! ### The service of an interrupt (R242, R243) -/

/-- The state in which an `Irq` or an `Nmi` that is taken leaves the core: the shared entry with Break
clear in the pushed status, then the countdown. -/
def State.serviced (s : State) (vector : Word) (countdown : Nat) : State :=
  { s.enterInterrupt false vector with cycles := countdown }

theorem irq_of_masked {s : State} (h : s.flag .i = true) : s.irq = s := if_pos h

theorem irq_of_unmasked {s : State} (h : s.flag .i = false) : s.irq = s.serviced 0xFFFE 7 :=
  if_neg (Bool.eq_false_iff.mp h)

theorem nmi_eq (s : State) : s.nmi = s.serviced 0xFFFA 8 := rfl

theorem event_irq {s : State} (hr : s.hasReset = true) : event .irq s = .next s.irq := by
  simp only [event, hr]

theorem event_nmi {s : State} (hr : s.hasReset = true) : event .nmi s = .next s.nmi := by
  simp only [event, hr]

/-- A taken interrupt is a service, whichever it is. -/
theorem serviced_of_event {e : Event} {s t : State} (hr : s.hasReset = true)
    (htaken : e = .nmi ∨ (e = .irq ∧ s.flag .i = false)) (h : event e s = .next t) :
    ∃ vector countdown, t = s.serviced vector countdown := by
  rcases htaken with rfl | ⟨rfl, hi⟩
  · rw [event_nmi hr, nmi_eq] at h
    exact ⟨_, _, (Host.Outcome.next.inj h).symm⟩
  · rw [event_irq hr, irq_of_unmasked hi] at h
    exact ⟨_, _, (Host.Outcome.next.inj h).symm⟩

theorem serviced_hasReset (s : State) (vector : Word) (countdown : Nat) :
    (s.serviced vector countdown).hasReset = s.hasReset := enterInterrupt_hasReset s false vector

theorem serviced_flag_i (s : State) (vector : Word) (countdown : Nat) :
    (s.serviced vector countdown).flag .i = true := (enterInterrupt_flags s false vector).1

/-- Interrupts push the status with Break clear and Unused set, whatever they were (R211). -/
theorem pushedStatus_false (p : Byte) : pushedStatus p false = (p &&& 0xCF) ||| 0x20 := BitVec.or_zero

theorem serviced_enters (s : State) (vector : Word) (countdown : Nat) :
    EntersInterrupt vector countdown s (s.serviced vector countdown) := by
  simp only [EntersInterrupt, ← pushedStatus_false]
  obtain ⟨hset, hkept⟩ := enterInterrupt_flags s false vector
  exact ⟨enterInterrupt_sp_three s false vector, hset, hkept, enterInterrupt_pc s false vector, rfl,
    enterInterrupt_a s false vector, enterInterrupt_x s false vector, enterInterrupt_y s false vector,
    enterInterrupt_bus s false vector, enterInterrupt_stored s false vector,
    enterInterrupt_fetched s false vector, enterInterrupt_temp s false vector,
    enterInterrupt_addrAbs s false vector, enterInterrupt_addrRel s false vector,
    enterInterrupt_totalCycles s false vector, enterInterrupt_opcode s false vector,
    enterInterrupt_hostCalls s false vector, enterInterrupt_hasReset s false vector,
    enterInterrupt_platform s false vector⟩

/-! ### The return after an entry (R250) -/

/-- Of the register, a status pop keeps Break alone: Interrupt-disable is the popped byte's. -/
theorem poppedStatus_setFlag_i (p v : Byte) (set : Bool) :
    poppedStatus (setFlag p .i set) v = poppedStatus p v := by
  have hbreak : getFlag (setFlag p .i set) .b = getFlag p .b := by
    rw [getFlag_setFlag, if_neg (by decide)]
  apply status_ext
  intro f
  rw [getFlag_poppedStatus, getFlag_poppedStatus, hbreak]

/-- What an interrupt entry pushed onto plain memory reads back where RTI pops it. -/
theorem pops_of_enterInterrupt {s : State} (hram : StackRam s 3) (b : Bool) (vector : Word) :
    popLow (s.enterInterrupt b vector) = pushedStatus s.p b ∧
      (s.enterInterrupt b vector).pop.2.popWord.1 = s.pc := by
  have hhigh : ramAt s.platform (stackAddr s.sp) = true := by simpa using hram 0 (by decide)
  have hlow : ramAt s.platform (stackAddr (s.sp - 1)) = true := hram 1 (by decide)
  have hstatus : ramAt s.platform (stackAddr (s.sp - 2)) = true := hram 2 (by decide)
  have hone : (s.enterInterrupt b vector).sp + 1 = s.sp - 2 := by
    rw [enterInterrupt_sp_three]; bv_omega
  have htwo : (s.enterInterrupt b vector).pop.2.sp + 1 = s.sp - 1 := by
    rw [pop_sp, hone]; bv_omega
  have hthree : (s.enterInterrupt b vector).pop.2.sp + 2 = s.sp := by
    rw [pop_sp, hone]; bv_omega
  obtain ⟨hbytes, -⟩ := enterInterrupt_stored s b vector
  simp only [List.forall_mem_cons, if_pos hhigh, if_pos hlow, if_pos hstatus] at hbytes
  obtain ⟨hbyteHigh, hbyteLow, hbyteStatus, -⟩ := hbytes
  constructor
  · rw [popLow, hone, readValue_plain, hbyteStatus]
    rw [enterInterrupt_platform]
    exact plainAt_of_ramAt hstatus
  · rw [popWord_plain, htwo, hthree, pop_mem, hbyteHigh, hbyteLow, join_hi_lo]
    · rw [htwo, pop_platform, enterInterrupt_platform]
      exact plainAt_of_ramAt hlow
    · rw [hthree, pop_platform, enterInterrupt_platform]
      exact plainAt_of_ramAt hhigh

/-- RTI loads its own cost over any countdown. -/
theorem exec_rti_countdown (s : State) (n : Nat) : exec .rti { s with cycles := n } = exec .rti s := rfl

/-- RTI after an interrupt entry through plain memory: every register is as before the entry. -/
theorem rti_undoes_enterInterrupt {s : State} (hu : s.flag .u = true) (hram : StackRam s 3) (b : Bool)
    (vector : Word) :
    Completes .rti (s.enterInterrupt b vector) fun u =>
      u.pc = s.pc ∧ u.p = s.p ∧ u.sp = s.sp ∧ u.a = s.a ∧ u.x = s.x ∧ u.y = s.y := by
  obtain ⟨hstatus, hpc⟩ := pops_of_enterInterrupt hram b vector
  have hp := enterInterrupt_p s b vector
  have hsp := enterInterrupt_sp_three s b vector
  have ha := enterInterrupt_a s b vector
  have hx := enterInterrupt_x s b vector
  have hy := enterInterrupt_y s b vector
  generalize s.enterInterrupt b vector = t at *
  refine ⟨_, exec_rti t, hpc, ?_, ?_, ha, hx, hy⟩
  · calc poppedStatus t.p (popLow t)
      _ = poppedStatus s.p (pushedStatus s.p b) := by rw [hstatus, hp, poppedStatus_setFlag_i]
      _ = s.p := poppedStatus_pushedStatus hu b
  · calc t.sp + 1 + 1 + 1
      _ = s.sp - 3 + 1 + 1 + 1 := by rw [hsp]
      _ = s.sp := by bv_omega

end Sys2Proof.Machine
end

section
/-! The obligations about interrupts (60_exceptions.md). -/

namespace Sys2Proof.Machine

/-- Settles O16: Interrupt-disable clear, the service through 0xFFFE; set, the same state. -/
theorem irqEntersUnlessMasked : Obligations.IrqEntersUnlessMasked := by
  intro s hr
  rw [event_irq hr]
  constructor
  · intro hi
    rw [irq_of_unmasked hi]
    exact ⟨_, rfl, serviced_enters s 0xFFFE 7⟩
  · intro hi
    rw [irq_of_masked hi]

/-- Settles O17: the service through 0xFFFA, with no test of Interrupt-disable. -/
theorem nmiAlwaysEnters : Obligations.NmiAlwaysEnters := fun s hr =>
  ⟨_, event_nmi hr, serviced_enters s 0xFFFA 8⟩

/-- Settles O18: a service leaves Interrupt-disable set, which masks the `Irq`. -/
theorem irqAfterEntryIsDropped : Obligations.IrqAfterEntryIsDropped := by
  intro e s t hr htaken h
  obtain ⟨vector, countdown, rfl⟩ := serviced_of_event hr htaken h
  rw [event_irq ((serviced_hasReset s vector countdown).trans hr),
    irq_of_masked (serviced_flag_i s vector countdown)]

/-- Settles O19: the three entries are one; BRK's starts with `pc` past the padding byte. -/
theorem returnUndoesEntry : Obligations.ReturnUndoesEntry := by
  intro s t hr hu hram
  constructor
  · intro h
    obtain ⟨vector, countdown, rfl⟩ : ∃ vector countdown, t = s.serviced vector countdown := by
      rcases h with hnmi | ⟨hirq, hi⟩
      · exact serviced_of_event hr (.inl rfl) hnmi
      · exact serviced_of_event hr (.inr ⟨rfl, hi⟩) hirq
    rw [Completes, State.serviced, exec_rti_countdown]
    exact rti_undoes_enterInterrupt hu hram false vector
  · intro hbrk
    obtain rfl := Host.Outcome.next.inj ((exec_brk s).symm.trans hbrk)
    exact rti_undoes_enterInterrupt (s := s.pastPadding) hu hram true 0xFFFE

end Sys2Proof.Machine
end

section
/-! SUPPORT. `Reset` as an event, the other events before the first one, and a step that runs an
instruction (70_reset_and_hazards.md R270 to R272; 40_step_and_dispatch.md R100). -/

namespace Sys2Proof.Machine

/-! ### `Reset` (R270) -/

/-- `Reset` has a meaning in every state, before the first one too. -/
theorem event_reset (s : State) : event .reset s = .next s.resetEvent := by
  simp only [event]

theorem resetEvent_pc (s : State) :
    s.resetEvent.pc = join ((s.memRead 0xFFFC).2.readValue 0xFFFD) (s.readValue 0xFFFC) := rfl

/-- `Reset` reads the two vector bytes, low byte first, and writes nothing. -/
theorem resetEvent_bus (s : State) :
    s.resetEvent.bus =
      [.read 0xFFFD ((s.memRead 0xFFFC).2.readValue 0xFFFD), .read 0xFFFC (s.readValue 0xFFFC)] ++ s.bus :=
  read16_bus s 0xFFFC 0xFFFD

theorem resetEvent_mem (s : State) : s.resetEvent.mem = s.mem := read16_mem s 0xFFFC 0xFFFD

/-! ### The other events before it (R271) -/

/-- A core that has not been reset refuses every event but `Reset` (R271). -/
theorem event_refused {e : Event} {s : State} (hr : s.hasReset = false) (he : e ≠ .reset) :
    event e s = .refused .eventBeforeReset := by
  cases e with
  | reset => exact absurd rfl he
  | tick | irq | nmi => simp only [event, hr]

/-! ### The ticks after a `Reset` (R272) -/

/-- With no host call pending, a step at countdown zero runs the instruction at `pc` and counts. -/
theorem step_of_zero {s : State} (hr : s.hasReset = true) (hcalls : s.hostCalls = [])
    (h : s.cycles = 0) : step s = countOutcome s.runInstr := by
  have hnext : s.nextEvent = (.tick, s) := by rw [State.nextEvent, hcalls]
  rw [step_tick (by rw [hnext]) hr, hnext, tick_of_zero h, State.runInstr]

/-- The eight cycles that `Reset` leaves owing are eight ticks that only count (R272). -/
theorem resetEvent_delay {s : State} (hcalls : s.hostCalls = []) :
    Host.Core.run core 8 s.resetEvent =
      .next { s.resetEvent with cycles := 0, totalCycles := s.totalCycles + 8 } :=
  delayRunOnlyCounts 8 s.resetEvent rfl hcalls (Nat.le_refl 8)

end Sys2Proof.Machine
end

section
/-! The obligations about reset (70_reset_and_hazards.md). -/

namespace Sys2Proof.Machine

/-- Settles O9: the ninth tick finds the countdown that `Reset` loaded at zero. -/
theorem firstInstructionAtNinthTick : Obligations.FirstInstructionAtNinthTick := by
  intro s hcalls
  rw [core_run_add 8 1 (resetEvent_delay hcalls), core_run_one]
  exact step_of_zero rfl hcalls rfl

/-- Settles O12: taking the host's next call leaves the core without a `Reset`, and the event is not
one. -/
theorem eventsBeforeResetRefused : Obligations.EventsBeforeResetRefused := fun s hr he =>
  event_refused ((nextEvent_hasReset s).trans hr) he

/-- Settles O14: the two vector reads are the whole of what `Reset` does to the bus, and every field
they leave alone is set to a literal or kept. -/
theorem resetEventSetsTheState : Obligations.ResetEventSetsTheState := fun s =>
  ⟨s.resetEvent, event_reset s, rfl, rfl, rfl, rfl, rfl, resetEvent_pc s, rfl, rfl, rfl, rfl, rfl, rfl,
    rfl, rfl, resetEvent_bus s, fun a => by rw [resetEvent_mem], rfl, rfl⟩

end Sys2Proof.Machine
end
